-- ==== Sys2Proof/Word.lean ====
section
/-! DEFINITION. The bit-vector types of the core (00_scope.md R8 "Fixed by the source", R11; 30_encoding.md R82). -/

namespace Sys2Proof

/-- A raw16: the content of a scalar register, a vector lane, a vertex field or an immediate (R11). -/
abbrev Raw16 := BitVec 16

/-- An instruction word `iw` (R80). -/
abbrev IWord := BitVec 32

/-- One byte of data memory (R61). -/
abbrev Byte := BitVec 8

/-- A scalar register index field: 4 bits (R91). -/
abbrev SIdx := BitVec 4

/-- A vector register index field: 6 bits (R91). -/
abbrev VIdx := BitVec 6

/-- A lane index field: 2 bits, every value valid (R91). -/
abbrev LaneIdx := BitVec 2

/-- The primitive-type selector field: 4 bits (R91). -/
abbrev PrimSel := BitVec 4

/-- An opcode value, `iw[31:24]` (R80). -/
abbrev OpByte := BitVec 8

end Sys2Proof
end

