-- ==== Sys2Proof/Config.lean ====
section
/-! DEFINITION. The parameters of 00_scope.md R8: what an implementation fixes before a run. -/

namespace Sys2Proof

/-- The 39 instruction tags, in the order of the opcode map (30_encoding.md R95). -/
inductive Mnem where
  | addD | addF | addiD | addiF | vadd | andD | andiD
  | mov | moviD | moviF | vmov | vmovi | cmp | cmpi | vcompmov | vcompmovi
  | ldb | ldw | stb | stw
  | setvertex | setcolor | rotate | translate | scale | beginprimitive | flush | draw
  | brn | brz | brp | brnz | brnp | brzp | brnzp | jmp | jsr | jsrr | halt
deriving DecidableEq, Repr

/-- Every tag once, in the order of R95. -/
def Mnem.all : List Mnem :=
  [.addD, .addF, .addiD, .addiF, .vadd, .andD, .andiD,
   .mov, .moviD, .moviF, .vmov, .vmovi, .cmp, .cmpi, .vcompmov, .vcompmovi,
   .ldb, .ldw, .stb, .stw] ++
  [.setvertex, .setcolor, .rotate, .translate, .scale, .beginprimitive, .flush, .draw] ++
  [.brn, .brz, .brp, .brnz, .brnp, .brzp, .brnzp, .jmp, .jsr, .jsrr, .halt]

/-- The parameter `OPC`: an opcode value for each mnemonic (R8). The defaults are the column
"default `op`" of R95; they are the spec's own choice (92_eei_decisions.md D1). -/
structure Opc where
  addD : OpByte := 0x00
  addF : OpByte := 0x01
  addiD : OpByte := 0x02
  addiF : OpByte := 0x03
  vadd : OpByte := 0x04
  andD : OpByte := 0x05
  andiD : OpByte := 0x06
  mov : OpByte := 0x07
  moviD : OpByte := 0x08
  moviF : OpByte := 0x09
  vmov : OpByte := 0x0A
  vmovi : OpByte := 0x0B
  cmp : OpByte := 0x0C
  cmpi : OpByte := 0x0D
  vcompmov : OpByte := 0x0E
  vcompmovi : OpByte := 0x0F
  ldb : OpByte := 0x10
  ldw : OpByte := 0x11
  stb : OpByte := 0x12
  stw : OpByte := 0x13
  setvertex : OpByte := 0x20
  setcolor : OpByte := 0x21
  rotate : OpByte := 0x22
  translate : OpByte := 0x23
  scale : OpByte := 0x24
  beginprimitive : OpByte := 0x25
  flush : OpByte := 0x26
  draw : OpByte := 0x27
  brn : OpByte := 0x30
  brz : OpByte := 0x31
  brp : OpByte := 0x32
  brnz : OpByte := 0x33
  brnp : OpByte := 0x34
  brzp : OpByte := 0x35
  brnzp : OpByte := 0x36
  jmp : OpByte := 0x37
  jsr : OpByte := 0x38
  jsrr : OpByte := 0x39
  halt : OpByte := 0x40
deriving DecidableEq, Repr

/-- `OPC(m)`: the opcode value of the mnemonic `m` (R8). -/
def Opc.code (o : Opc) : Mnem → OpByte
  | .addD => o.addD
  | .addF => o.addF
  | .addiD => o.addiD
  | .addiF => o.addiF
  | .vadd => o.vadd
  | .andD => o.andD
  | .andiD => o.andiD
  | .mov => o.mov
  | .moviD => o.moviD
  | .moviF => o.moviF
  | .vmov => o.vmov
  | .vmovi => o.vmovi
  | .cmp => o.cmp
  | .cmpi => o.cmpi
  | .vcompmov => o.vcompmov
  | .vcompmovi => o.vcompmovi
  | .ldb => o.ldb
  | .ldw => o.ldw
  | .stb => o.stb
  | .stw => o.stw
  | .setvertex => o.setvertex
  | .setcolor => o.setcolor
  | .rotate => o.rotate
  | .translate => o.translate
  | .scale => o.scale
  | .beginprimitive => o.beginprimitive
  | .flush => o.flush
  | .draw => o.draw
  | .brn => o.brn
  | .brz => o.brz
  | .brp => o.brp
  | .brnz => o.brnz
  | .brnp => o.brnp
  | .brzp => o.brzp
  | .brnzp => o.brnzp
  | .jmp => o.jmp
  | .jsr => o.jsr
  | .jsrr => o.jsrr
  | .halt => o.halt

/-- "injective into 0..255" (R8): no two mnemonics share an opcode value. -/
abbrev Opc.Injective (o : Opc) : Prop := (Mnem.all.map o.code).Nodup

/-- The parameter `RESET_REGS` (R8): what the register files and `cc` hold after reset. -/
inductive ResetRegs where
  | undefined
  | zero
deriving DecidableEq, Repr

/-- How one of the two integers next to a number that is no integer is chosen (names of the model, log 8). -/
inductive RoundDir where
  | towardZero
  | awayFromZero
  | towardNegInf
  | towardPosInf
  | toEven
  | toOdd
deriving DecidableEq, Repr

/-- The parameter `FTF_ROUND` (R8): the integer `FloatToFixed` takes when `16*f` is not one (40_numeric.md R123).
R8 puts no constraint on it and names only the default, `directed towardZero`; the other names are the model's
(DESIGN CHOICE, log 8). -/
inductive FtfRound where
  /-- The neighbour on the given side. -/
  | directed (d : RoundDir)
  /-- The nearer neighbour, a tie going to the given side. -/
  | nearest (ties : RoundDir)
  /-- Any map at all: the `k`-th of a family about which nothing is known (`Config.otherRounding`). -/
  | other (k : Nat)
deriving DecidableEq, Repr

/-- The maps that `FtfRound.other` names: for each, an integer for every number that is no integer, the number
given as the set of the rationals below it (it is determined by that set, be it a real or a rational). It has no
body, so a claim that holds for it holds for every rounding R8 admits (DESIGN CHOICE, log 8; safe). -/
opaque Config.otherRounding : Nat → (Rat → Prop) → Int

/-- The parameters of R8, each with R8's default. `pcIdx` and `lrIdx` are index-field values: R8 bounds them
by `NSREG <= 16`. -/
structure Config where
  opc : Opc := {}
  nsreg : Nat := 16
  pcIdx : SIdx := 15
  lrIdx : SIdx := 14
  nvreg : Nat := 64
  memsize : Nat := 65536
  resetRegs : ResetRegs := .undefined
  ftfRound : FtfRound := .directed .towardZero
deriving DecidableEq, Repr

/-- The constraint column of R8. -/
abbrev Config.Valid (c : Config) : Prop :=
  c.opc.Injective ∧ 3 ≤ c.nsreg ∧ c.nsreg ≤ 16 ∧ c.pcIdx.toNat < c.nsreg ∧ c.lrIdx.toNat < c.nsreg ∧
    c.lrIdx ≠ c.pcIdx ∧ 1 ≤ c.nvreg ∧ c.nvreg ≤ 64 ∧ 1 ≤ c.memsize

/-- The longest program the core admits: `0 <= L <= 16383` (R8, 20_memory.md R62). -/
def maxProgramLength : Nat := 16383

/-- Every parameter at R8's default (`RESET_REGS = undefined`). -/
def Config.specDefault : Config := {}

/-- The parameters `State.reset` holds: R8's defaults, but `RESET_REGS = zero`, the value of that parameter
under which every register holds a value at reset (DESIGN CHOICE, log 1). -/
def Config.atReset : Config := { resetRegs := .zero }

end Sys2Proof
end

