-- ==== Sys2Proof/Syntax.lean ====
section
/-! DEFINITION. The instructions as syntax: one constructor per row of spec/opcode_table.json, its arguments
the fields its format lists (30_encoding.md R82, R85). An unrecognized opcode is no instruction of the table:
it is `Decoded.nop` of Sys2Proof/Decode.lean (R100). -/

namespace Sys2Proof

/-- The 39 instructions of R95, in the table's order. -/
inductive Instr where
  | addD (d s1 s2 : SIdx)
  | addF (d s1 s2 : SIdx)
  | addiD (d s1 : SIdx) (imm : Raw16)
  | addiF (d s1 : SIdx) (imm : Raw16)
  | vadd (vd vs1 vs2 : VIdx)
  | andD (d s1 s2 : SIdx)
  | andiD (d s1 : SIdx) (imm : Raw16)
  | mov (md ms : SIdx)
  | moviD (md : SIdx) (imm : Raw16)
  | moviF (md : SIdx) (imm : Raw16)
  | vmov (vd vs1 : VIdx)
  | vmovi (vd : VIdx) (imm : Raw16)
  | cmp (s1 s2 : SIdx)
  | cmpi (s1 : SIdx) (imm : Raw16)
  | vcompmov (lane : LaneIdx) (vd : VIdx) (s2 : SIdx)
  | vcompmovi (lane : LaneIdx) (vd : VIdx) (imm : Raw16)
  | ldb (d s1 : SIdx) (imm : Raw16)
  | ldw (d s1 : SIdx) (imm : Raw16)
  | stb (d s1 : SIdx) (imm : Raw16)
  | stw (d s1 : SIdx) (imm : Raw16)
  | setvertex (vd : VIdx)
  | setcolor (vd : VIdx)
  | rotate (vd : VIdx)
  | translate (vd : VIdx)
  | scale (vd : VIdx)
  | beginprimitive (prim : PrimSel)
  | flush
  | draw
  | brn (imm : Raw16)
  | brz (imm : Raw16)
  | brp (imm : Raw16)
  | brnz (imm : Raw16)
  | brnp (imm : Raw16)
  | brzp (imm : Raw16)
  | brnzp (imm : Raw16)
  | jmp (s1 : SIdx)
  | jsr (imm : Raw16)
  | jsrr (s1 : SIdx)
  | halt
deriving DecidableEq, Repr

end Sys2Proof
end

