-- ==== Sys2Proof/Decode.lean ====
section
/-! DEFINITION. The decoder and the encoder (30_encoding.md R80 to R101). An instruction is one whole 32-bit
word: instruction fetch has no byte order (20_memory.md R67). -/

namespace Sys2Proof

/-- The decoder's answer (R83, R100): an instruction, or `NOP(op)` with the raw opcode kept. -/
inductive Decoded where
  | instr (i : Instr)
  | nop (op : OpByte)
deriving DecidableEq, Repr

/-- `op = iw[31:24]` (R82). -/
def fieldOp (iw : IWord) : OpByte := iw.extractLsb' 24 8

/-- `d = iw[23:20]` (R82). -/
def fieldD (iw : IWord) : SIdx := iw.extractLsb' 20 4

/-- `s1 = iw[19:16]` (R82). -/
def fieldS1 (iw : IWord) : SIdx := iw.extractLsb' 16 4

/-- `s2 = iw[11:8]` (R82). -/
def fieldS2 (iw : IWord) : SIdx := iw.extractLsb' 8 4

/-- `md = iw[19:16]`, the same bits as `s1` (R82). -/
def fieldMd (iw : IWord) : SIdx := iw.extractLsb' 16 4

/-- `ms = iw[11:8]`, the same bits as `s2` (R82). -/
def fieldMs (iw : IWord) : SIdx := iw.extractLsb' 8 4

/-- `vd = iw[21:16]` (R82). -/
def fieldVd (iw : IWord) : VIdx := iw.extractLsb' 16 6

/-- `vs1 = iw[13:8]` (R82, R86 a). -/
def fieldVs1 (iw : IWord) : VIdx := iw.extractLsb' 8 6

/-- `vs2 = iw[5:0]` (R82). -/
def fieldVs2 (iw : IWord) : VIdx := iw.extractLsb' 0 6

/-- `lane = iw[23:22]` (R82). -/
def fieldLane (iw : IWord) : LaneIdx := iw.extractLsb' 22 2

/-- `prim = iw[19:16]` (R82). -/
def fieldPrim (iw : IWord) : PrimSel := iw.extractLsb' 16 4

/-- `imm = iw[15:0]` (R82, R86 b, R90). -/
def fieldImm (iw : IWord) : Raw16 := iw.extractLsb' 0 16

/-- The instruction of the tag `m` with the fields of its format (R85) taken from `iw`. -/
def decodeAs (m : Mnem) (iw : IWord) : Instr :=
  match m with
  | .addD => .addD (fieldD iw) (fieldS1 iw) (fieldS2 iw)
  | .addF => .addF (fieldD iw) (fieldS1 iw) (fieldS2 iw)
  | .addiD => .addiD (fieldD iw) (fieldS1 iw) (fieldImm iw)
  | .addiF => .addiF (fieldD iw) (fieldS1 iw) (fieldImm iw)
  | .vadd => .vadd (fieldVd iw) (fieldVs1 iw) (fieldVs2 iw)
  | .andD => .andD (fieldD iw) (fieldS1 iw) (fieldS2 iw)
  | .andiD => .andiD (fieldD iw) (fieldS1 iw) (fieldImm iw)
  | .mov => .mov (fieldMd iw) (fieldMs iw)
  | .moviD => .moviD (fieldMd iw) (fieldImm iw)
  | .moviF => .moviF (fieldMd iw) (fieldImm iw)
  | .vmov => .vmov (fieldVd iw) (fieldVs1 iw)
  | .vmovi => .vmovi (fieldVd iw) (fieldImm iw)
  | .cmp => .cmp (fieldS1 iw) (fieldS2 iw)
  | .cmpi => .cmpi (fieldS1 iw) (fieldImm iw)
  | .vcompmov => .vcompmov (fieldLane iw) (fieldVd iw) (fieldS2 iw)
  | .vcompmovi => .vcompmovi (fieldLane iw) (fieldVd iw) (fieldImm iw)
  | .ldb => .ldb (fieldD iw) (fieldS1 iw) (fieldImm iw)
  | .ldw => .ldw (fieldD iw) (fieldS1 iw) (fieldImm iw)
  | .stb => .stb (fieldD iw) (fieldS1 iw) (fieldImm iw)
  | .stw => .stw (fieldD iw) (fieldS1 iw) (fieldImm iw)
  | .setvertex => .setvertex (fieldVd iw)
  | .setcolor => .setcolor (fieldVd iw)
  | .rotate => .rotate (fieldVd iw)
  | .translate => .translate (fieldVd iw)
  | .scale => .scale (fieldVd iw)
  | .beginprimitive => .beginprimitive (fieldPrim iw)
  | .flush => .flush
  | .draw => .draw
  | .brn => .brn (fieldImm iw)
  | .brz => .brz (fieldImm iw)
  | .brp => .brp (fieldImm iw)
  | .brnz => .brnz (fieldImm iw)
  | .brnp => .brnp (fieldImm iw)
  | .brzp => .brzp (fieldImm iw)
  | .brnzp => .brnzp (fieldImm iw)
  | .jmp => .jmp (fieldS1 iw)
  | .jsr => .jsr (fieldImm iw)
  | .jsrr => .jsrr (fieldS1 iw)
  | .halt => .halt

/-- The mnemonic that `OPC` assigns to the opcode value `op`, if any (R83, R95). -/
def Opc.mnemOf (o : Opc) (op : OpByte) : Option Mnem := Mnem.all.find? fun m => o.code m == op

/-- `Decode(iw)` (R81, R83): total; only `iw[31:24]` selects the instruction, and an opcode outside the image
of `OPC` is `NOP(op)` (R100). -/
def decode (o : Opc) (iw : IWord) : Decoded :=
  match o.mnemOf (fieldOp iw) with
  | some m => .instr (decodeAs m iw)
  | none => .nop (fieldOp iw)

/-- The tag of an instruction (R83). -/
def Instr.mnem : Instr → Mnem
  | .addD .. => .addD
  | .addF .. => .addF
  | .addiD .. => .addiD
  | .addiF .. => .addiF
  | .vadd .. => .vadd
  | .andD .. => .andD
  | .andiD .. => .andiD
  | .mov .. => .mov
  | .moviD .. => .moviD
  | .moviF .. => .moviF
  | .vmov .. => .vmov
  | .vmovi .. => .vmovi
  | .cmp .. => .cmp
  | .cmpi .. => .cmpi
  | .vcompmov .. => .vcompmov
  | .vcompmovi .. => .vcompmovi
  | .ldb .. => .ldb
  | .ldw .. => .ldw
  | .stb .. => .stb
  | .stw .. => .stw
  | .setvertex .. => .setvertex
  | .setcolor .. => .setcolor
  | .rotate .. => .rotate
  | .translate .. => .translate
  | .scale .. => .scale
  | .beginprimitive .. => .beginprimitive
  | .flush => .flush
  | .draw => .draw
  | .brn .. => .brn
  | .brz .. => .brz
  | .brp .. => .brp
  | .brnz .. => .brnz
  | .brnp .. => .brnp
  | .brzp .. => .brzp
  | .brnzp .. => .brnzp
  | .jmp .. => .jmp
  | .jsr .. => .jsr
  | .jsrr .. => .jsrr
  | .halt => .halt

/-- A field value placed with its lowest bit at bit `lo` of the word, every other bit 0. -/
def place {n : Nat} (lo : Nat) (field : BitVec n) : IWord := field.setWidth 32 <<< lo

/-- Format `R3`: `oooooooo dddd aaaa ---- bbbb --------` (R85). -/
def packR3 (op : OpByte) (d s1 s2 : SIdx) : IWord := place 24 op ||| place 20 d ||| place 16 s1 ||| place 8 s2

/-- Formats `RI` and `MEM`: `oooooooo dddd aaaa iiiiiiiiiiiiiiii` (R85). -/
def packRI (op : OpByte) (d s1 : SIdx) (imm : Raw16) : IWord :=
  place 24 op ||| place 20 d ||| place 16 s1 ||| place 0 imm

/-- Formats `M2` and `C2`: `oooooooo ---- aaaa ---- bbbb --------` (R85). -/
def packM2 (op : OpByte) (a b : SIdx) : IWord := place 24 op ||| place 16 a ||| place 8 b

/-- Formats `MI` and `CI`: `oooooooo ---- aaaa iiiiiiiiiiiiiiii` (R85). -/
def packMI (op : OpByte) (a : SIdx) (imm : Raw16) : IWord := place 24 op ||| place 16 a ||| place 0 imm

/-- Format `V3`: `oooooooo -- DDDDDD -- AAAAAA -- BBBBBB` (R85). -/
def packV3 (op : OpByte) (vd vs1 vs2 : VIdx) : IWord :=
  place 24 op ||| place 16 vd ||| place 8 vs1 ||| place 0 vs2

/-- Format `V2`: `oooooooo -- DDDDDD -- AAAAAA --------` (R85). -/
def packV2 (op : OpByte) (vd vs1 : VIdx) : IWord := place 24 op ||| place 16 vd ||| place 8 vs1

/-- Format `VI`: `oooooooo -- DDDDDD iiiiiiiiiiiiiiii` (R85). -/
def packVI (op : OpByte) (vd : VIdx) (imm : Raw16) : IWord := place 24 op ||| place 16 vd ||| place 0 imm

/-- Format `LR`: `oooooooo ll DDDDDD ---- bbbb --------` (R85). -/
def packLR (op : OpByte) (lane : LaneIdx) (vd : VIdx) (s2 : SIdx) : IWord :=
  place 24 op ||| place 22 lane ||| place 16 vd ||| place 8 s2

/-- Format `LI`: `oooooooo ll DDDDDD iiiiiiiiiiiiiiii` (R85). -/
def packLI (op : OpByte) (lane : LaneIdx) (vd : VIdx) (imm : Raw16) : IWord :=
  place 24 op ||| place 22 lane ||| place 16 vd ||| place 0 imm

/-- Format `G1`: `oooooooo -- DDDDDD ----------------` (R85). -/
def packG1 (op : OpByte) (vd : VIdx) : IWord := place 24 op ||| place 16 vd

/-- Formats `P` and `J`: `oooooooo ---- aaaa ----------------` (R85). -/
def packP (op : OpByte) (a : BitVec 4) : IWord := place 24 op ||| place 16 a

/-- Format `B`: `oooooooo -------- iiiiiiiiiiiiiiii` (R85). -/
def packB (op : OpByte) (imm : Raw16) : IWord := place 24 op ||| place 0 imm

/-- Format `Z`: `oooooooo ------------------------` (R85). -/
def packZ (op : OpByte) : IWord := place 24 op

/-- The encoder: the word of an instruction by its format in R85, every ignored bit 0 (R111). -/
def encode (o : Opc) (i : Instr) : IWord :=
  let op := o.code i.mnem
  match i with
  | .addD d s1 s2 => packR3 op d s1 s2
  | .addF d s1 s2 => packR3 op d s1 s2
  | .addiD d s1 imm => packRI op d s1 imm
  | .addiF d s1 imm => packRI op d s1 imm
  | .vadd vd vs1 vs2 => packV3 op vd vs1 vs2
  | .andD d s1 s2 => packR3 op d s1 s2
  | .andiD d s1 imm => packRI op d s1 imm
  | .mov md ms => packM2 op md ms
  | .moviD md imm => packMI op md imm
  | .moviF md imm => packMI op md imm
  | .vmov vd vs1 => packV2 op vd vs1
  | .vmovi vd imm => packVI op vd imm
  | .cmp s1 s2 => packM2 op s1 s2
  | .cmpi s1 imm => packMI op s1 imm
  | .vcompmov lane vd s2 => packLR op lane vd s2
  | .vcompmovi lane vd imm => packLI op lane vd imm
  | .ldb d s1 imm => packRI op d s1 imm
  | .ldw d s1 imm => packRI op d s1 imm
  | .stb d s1 imm => packRI op d s1 imm
  | .stw d s1 imm => packRI op d s1 imm
  | .setvertex vd => packG1 op vd
  | .setcolor vd => packG1 op vd
  | .rotate vd => packG1 op vd
  | .translate vd => packG1 op vd
  | .scale vd => packG1 op vd
  | .beginprimitive prim => packP op prim
  | .flush => packZ op
  | .draw => packZ op
  | .brn imm => packB op imm
  | .brz imm => packB op imm
  | .brp imm => packB op imm
  | .brnz imm => packB op imm
  | .brnp imm => packB op imm
  | .brzp imm => packB op imm
  | .brnzp imm => packB op imm
  | .jmp s1 => packP op s1
  | .jsr imm => packB op imm
  | .jsrr s1 => packP op s1
  | .halt => packZ op

/-- The bits of `iw[23:0]` that the format of `m` assigns to a field, with the eight opcode bits (the
complement is R85's column "ignored bits"). -/
def Mnem.usedBits : Mnem → IWord
  | .addD => 0xFFFF0F00
  | .addF => 0xFFFF0F00
  | .addiD => 0xFFFFFFFF
  | .addiF => 0xFFFFFFFF
  | .vadd => 0xFF3F3F3F
  | .andD => 0xFFFF0F00
  | .andiD => 0xFFFFFFFF
  | .mov => 0xFF0F0F00
  | .moviD => 0xFF0FFFFF
  | .moviF => 0xFF0FFFFF
  | .vmov => 0xFF3F3F00
  | .vmovi => 0xFF3FFFFF
  | .cmp => 0xFF0F0F00
  | .cmpi => 0xFF0FFFFF
  | .vcompmov => 0xFFFF0F00
  | .vcompmovi => 0xFFFFFFFF
  | .ldb => 0xFFFFFFFF
  | .ldw => 0xFFFFFFFF
  | .stb => 0xFFFFFFFF
  | .stw => 0xFFFFFFFF
  | .setvertex => 0xFF3F0000
  | .setcolor => 0xFF3F0000
  | .rotate => 0xFF3F0000
  | .translate => 0xFF3F0000
  | .scale => 0xFF3F0000
  | .beginprimitive => 0xFF0F0000
  | .flush => 0xFF000000
  | .draw => 0xFF000000
  | .brn => 0xFF00FFFF
  | .brz => 0xFF00FFFF
  | .brp => 0xFF00FFFF
  | .brnz => 0xFF00FFFF
  | .brnp => 0xFF00FFFF
  | .brzp => 0xFF00FFFF
  | .brnzp => 0xFF00FFFF
  | .jmp => 0xFF0F0000
  | .jsr => 0xFF00FFFF
  | .jsrr => 0xFF0F0000
  | .halt => 0xFF000000

/-- A table word of `nbits` bits as the hardware's one 32-bit word: every bit above `nbits` is 0. -/
def tableWord (nbits w : Nat) : IWord := BitVec.ofNat 32 (w % 2 ^ nbits)

/-- The instruction the decoder reads, under R95's default `OPC`, from an instruction whose bits are `w`. -/
def decodeTableWord (nbits w : Nat) : Option Instr :=
  match decode {} (tableWord nbits w) with
  | .instr i => some i
  | .nop _ => none

end Sys2Proof
end

