-- ==== Sys2Proof/Machine/Numeric.lean ====
section
/-! DEFINITION. The numeric helper functions (40_numeric.md) and the readings of a raw16 (00_scope.md R11). -/

namespace Sys2Proof.Machine

/-- `s16(v)`: the two's-complement signed reading (R11). -/
def s16 (v : Raw16) : Int := v.toInt

/-- `u16(n) = n mod 65536`, the non-negative residue (R11). -/
def u16 (n : Int) : Raw16 := BitVec.ofInt 16 n

/-- `SignExtend16to32(v)`: bit 15 set gives `v | 0xFFFF0000`, else `v` (R120). -/
def signExtend16to32 (v : Raw16) : BitVec 32 :=
  if v.getLsbD 15 then v.setWidth 32 ||| 0xFFFF0000#32 else v.setWidth 32

/-- `FixedToFloat(raw)` by R121's formula, as an exact rational. -/
def fixedToFloat (raw : Raw16) : Rat :=
  if raw.getLsbD 15 then -2048 + ((raw &&& 0x7FFF#16).toNat : Rat) / 16
  else ((raw &&& 0x7FFF#16).toNat : Rat) / 16

/-- The neighbour of a number that is no integer which `d` chooses: `n` is the integer below the number, `n + 1`
the one above, `neg` says that the number is negative (log 8). -/
def pickNeighbour (d : RoundDir) (n : Int) (neg : Bool) : Int :=
  match d with
  | .towardZero => if neg then n + 1 else n
  | .awayFromZero => if neg then n else n + 1
  | .towardNegInf => n
  | .towardPosInf => n + 1
  | .toEven => if n % 2 = 0 then n else n + 1
  | .toOdd => if n % 2 = 0 then n + 1 else n

/-- The map `T` from a real to an integer that `FTF_ROUND` names (R123): the identity on integers. It is defined on
any ordered field with a floor, so on the reals of the rule and, where it can be evaluated, on the rationals; the
two agree (`floatToFixed_ratCast` of Sys2Proof/Laws/Numeric.lean). -/
def roundBy {R : Type} [Field R] [LinearOrder R] [FloorRing R] (m : FtfRound) (q : R) : Int :=
  if (⌊q⌋ : R) = q then ⌊q⌋
  else match m with
    | .directed d => pickNeighbour d ⌊q⌋ (decide (q < 0))
    | .nearest d =>
      if 2 * (q - ⌊q⌋) < 1 then ⌊q⌋
      else if 1 < 2 * (q - ⌊q⌋) then ⌊q⌋ + 1
      else pickNeighbour d ⌊q⌋ (decide (q < 0))
    | .other k => Config.otherRounding k fun r => (r : R) < q

/-- `FloatToFixed(f) = u16(T(16·f))` (R123), `T` being the parameter `FTF_ROUND` of `c`. -/
def floatToFixed {R : Type} [Field R] [LinearOrder R] [FloorRing R] (c : Config) (f : R) : Raw16 :=
  u16 (roundBy c.ftfRound (16 * f))

/-- `FixedToTruncatedInt(raw)` (R125): shift right 4, and force the top nibble to ones when bit 15 is set. -/
def fixedToTruncatedInt (raw : Raw16) : Raw16 :=
  if raw.getLsbD 15 then (raw >>> 4) ||| 0xF000#16 else raw >>> 4

/-- The 16-bit addition of R126: `u16(a + b)` (R127). -/
def add16 (a b : Raw16) : Raw16 := u16 ((a.toNat : Int) + (b.toNat : Int))

/-- The addition of a register and the sign-extended immediate, `u16(a + s16(imm))` (41_scalar_alu.md R132). -/
def addImm16 (a imm : Raw16) : Raw16 := u16 ((a.toNat : Int) + s16 imm)

/-- The logical right shift by 4 of SETVERTEX and SETCOLOR (R126). -/
def shr4 (a : Raw16) : Raw16 := a >>> 4

/-- The logical right shift by 2 of JMP and JSRR: a byte address to a word index (R126). -/
def byteToWordIndex (a : Raw16) : Nat := (a >>> 2).toNat

/-- The byte form of a word index, `k << 2` (20_memory.md R62). -/
def wordToByteAddress (k : Int) : Int := k * 4

/-- The low byte of a raw16, `val[7:0]` (20_memory.md R66). -/
def lowByte (a : Raw16) : Byte := a.extractLsb' 0 8

/-- The high byte of a raw16, `val[15:8]` (20_memory.md R66). -/
def highByte (a : Raw16) : Byte := a.extractLsb' 8 8

/-- `(high << 8) | low` (20_memory.md R66). -/
def joinBytes (high low : Byte) : Raw16 := (high.setWidth 16 <<< 8) ||| low.setWidth 16

/-- `zext_16(b)` (00_scope.md R11; 44_load_store.md R160). -/
def zext16 (b : Byte) : Raw16 := b.setWidth 16

end Sys2Proof.Machine
end

