-- ==== Sys2Proof/Machine/State.lean ====
section
/-! DEFINITION. The architectural state (10_state.md R20, the complete list), the reasons a step can stop, and
the state after reset (10_state.md R52). -/

namespace Sys2Proof.Machine

/-- The condition code (10_state.md R28): no flag, Negative, Zero or Positive. -/
inductive CC where
  | none
  | N
  | Z
  | P
deriving DecidableEq, Repr

/-- The four lanes of a vector register, lane 0 first (10_state.md R30). -/
structure Lanes (α : Type) where
  l0 : α
  l1 : α
  l2 : α
  l3 : α
deriving DecidableEq, Repr

/-- One vertex slot: an integer position and a color, 16 bits a field (10_state.md R35). -/
structure Vertex where
  x : Raw16
  y : Raw16
  z : Raw16
  r : Raw16
  g : Raw16
  b : Raw16
deriving DecidableEq, Repr

/-- The GPU status register (10_state.md R40). -/
structure Gsr where
  LINE : Bool
  TRIANGLE : Bool
  DRAW : Bool
  FLUSH : Bool
deriving DecidableEq, Repr

/-- The seven fault causes (60_exceptions.md R221). -/
inductive FaultCause where
  | pcOutOfRange
  | scalarIndexOutOfRange
  | vectorIndexOutOfRange
  | memOutOfRange
  | reservedRegister
  | undefinedRead
  | unpredictableOperand
deriving DecidableEq, Repr

/-- The code of a cause, 1 to 7 (60_exceptions.md R221). -/
def FaultCause.code : FaultCause → Nat
  | .pcOutOfRange => 1
  | .scalarIndexOutOfRange => 2
  | .vectorIndexOutOfRange => 3
  | .memOutOfRange => 4
  | .reservedRegister => 5
  | .undefinedRead => 6
  | .unpredictableOperand => 7

/-- What the fault register holds beside `none`: a cause and the value recorded with it, a signed integer
(10_state.md R43, 60_exceptions.md R221). -/
structure FaultRecord where
  cause : FaultCause
  info : Int
deriving DecidableEq, Repr

/-- Data memory: address and byte pairs in one canonical form (`Memory.WF`); an address with no entry reads as
`unlistedByte` (20_memory.md R61). -/
abbrev Memory := List Host.Cell

/-- The architectural state of the core (10_state.md R20). `cfg` and `prog` are the arguments R20 gives the
step function beside the state: no step writes them (log 2). -/
structure State where
  /-- The parameters of 00_scope.md R8. -/
  cfg : Config
  /-- `PROG`, immutable for the run (20_memory.md R62). -/
  prog : List IWord
  /-- The scalar registers (10_state.md R21); those at and above `NSREG` do not exist (log 9). -/
  x : Vector Raw16 16
  /-- Per scalar register: written since reset (10_state.md R24). -/
  xw : Vector Bool 16
  /-- The program counter, a word index kept as an integer (10_state.md R26). -/
  pc : Int
  /-- The condition code (10_state.md R28). -/
  cc : CC
  /-- `cc` has been written since reset (10_state.md R28). -/
  ccw : Bool
  /-- The vector registers (10_state.md R30); those at and above `NVREG` do not exist (log 9). -/
  v : Vector (Lanes Raw16) 64
  /-- Per lane: written since reset (10_state.md R31). -/
  vw : Vector (Lanes Bool) 64
  /-- The three vertex slots (10_state.md R35). -/
  vtx : Vector Vertex 3
  /-- The active vertex slot (10_state.md R36). -/
  cur : Fin 3
  /-- The GPU status register (10_state.md R40). -/
  gsr : Gsr
  /-- The halt flag (10_state.md R42). -/
  halted : Bool
  /-- The fault register (10_state.md R43). -/
  fault : Option FaultRecord
  /-- The data memory (20_memory.md R61). -/
  mem : Memory
deriving DecidableEq, Repr

/-- Why `step` answers that there is no step (46_control_flow.md R190). No instruction raises either: an
instruction's own faults are taken as next states that record them in the fault register (log 4). -/
inductive Fault where
  /-- Raised by `step` in a state with `halted = 1`: the run has ended and nothing happens until reset (R190).
  Safe: no effect of the hardware is lost, because the hardware has none there. -/
  | halted
  /-- Raised by `step` in a state whose fault register holds `f`: the core performs no further step (R190,
  60_exceptions.md R222 d). Safe, for the same reason. -/
  | faulted (f : FaultRecord)
deriving DecidableEq, Repr

/-- What the model refuses. No instruction is refused. -/
inductive Refusal where
  /-- Would be raised by an arm of `exec` for an instruction with no meaning yet; no arm does. Safe. -/
  | notModelled (mnemonic : String)
  /-- Raised by `State.boot` for a program longer than 16383 words, which the loader interface refuses
  (20_memory.md R62, 70_reset_and_hazards.md R255). Safe: the spec runs nothing there. -/
  | programTooLong
  /-- Raised by `State.boot` for parameters outside the constraints of 00_scope.md R8. Safe. -/
  | parametersNotAdmitted
deriving DecidableEq, Repr

/-- What `exec` and `step` answer. -/
abbrev Result := Host.Outcome State Fault Refusal

/-- What the state that R52 calls undefined or "any value" happens to hold after reset, under no law. No
instruction reads what is undefined; the snapshot shows it (log 14). -/
structure PowerOn where
  x : Vector Raw16 16
  cc : CC
  v : Vector (Lanes Raw16) 64
  vtx : Vector Vertex 3
deriving DecidableEq, Repr

/-- A vertex slot with every field 0. -/
def Vertex.zero : Vertex := ⟨0, 0, 0, 0, 0, 0⟩

/-- Every register 0 and no flag set: what `RESET_REGS = zero` puts there (R52). -/
def PowerOn.zero : PowerOn where
  x := Vector.replicate 16 0
  cc := .none
  v := Vector.replicate 64 ⟨0, 0, 0, 0⟩
  vtx := Vector.replicate 3 Vertex.zero

/-- The contents R52 gives the registers: the given ones under `RESET_REGS = undefined`, zeros otherwise. -/
def ResetRegs.contents (r : ResetRegs) (p : PowerOn) : PowerOn :=
  match r with
  | .undefined => p
  | .zero => PowerOn.zero

/-- The state after reset (R52, R250), for every choice of the parameters, of the program and of the contents
that R52 leaves undefined. -/
def State.resetWith (c : Config) (prog : List IWord) (p : PowerOn) : State where
  cfg := c
  prog := prog
  x := (ResetRegs.contents c.resetRegs p).x
  xw := Vector.replicate 16 false
  pc := 0
  cc := (ResetRegs.contents c.resetRegs p).cc
  ccw := false
  v := (ResetRegs.contents c.resetRegs p).v
  vw := Vector.replicate 64 ⟨false, false, false, false⟩
  vtx := (ResetRegs.contents c.resetRegs p).vtx
  cur := 0
  gsr := ⟨false, false, false, false⟩
  halted := false
  fault := none
  mem := []

/-- The machine right after reset: R8's default parameters but `RESET_REGS = zero` (log 1), and no program
loaded (log 3). -/
def State.reset : State := State.resetWith Config.atReset [] PowerOn.zero

end Sys2Proof.Machine
end

