-- ==== Sys2Proof/Machine/Ops.lean ====
section
/-! DEFINITION. The named operations over memory and registers, fault entry, and the end of an instruction. -/

namespace Sys2Proof.Machine

/-! ### Data memory (20_memory.md) -/

/-- What an address with no entry reads as: the memory is "zero-initialized at start" (20_memory.md R61). -/
def unlistedByte : Byte := 0

/-- The canonical form: addresses strictly rising, and no entry equal to what an unlisted address reads as. -/
abbrev Memory.WF (m : Memory) : Prop :=
  m.Pairwise (fun p q => p.1 < q.1) ∧ ∀ c ∈ m, c.2 ≠ unlistedByte

/-- The byte at address `a`. -/
def Memory.read : Memory → Nat → Byte
  | [], _ => unlistedByte
  | (b, w) :: rest, a => if a = b then w else Memory.read rest a

/-- The memory with byte `w` at address `a`, in canonical form again. -/
def Memory.write : Memory → Nat → Byte → Memory
  | [], a, w => if w = unlistedByte then [] else [(a, w)]
  | (b, u) :: rest, a, w =>
    if a < b then
      if w = unlistedByte then (b, u) :: rest else (a, w) :: (b, u) :: rest
    else if a = b then
      if w = unlistedByte then rest else (b, w) :: rest
    else (b, u) :: Memory.write rest a w

/-- `mem[a]` of a state. -/
def State.byteAt (s : State) (a : Nat) : Byte := s.mem.read a

/-- The state with byte `w` at `mem[a]`. -/
def State.setByte (s : State) (a : Nat) (w : Byte) : State := { s with mem := s.mem.write a w }

/-- An access of `n` bytes at `ea` is admitted (20_memory.md R65). -/
abbrev State.InMemory (s : State) (ea : Int) (n : Nat) : Prop := 0 ≤ ea ∧ ea + (n : Int) ≤ (s.cfg.memsize : Int)

/-- The range check of R65, carried by `MemRead` and `MemWrite` (00_scope.md R13). -/
def State.checkRange (s : State) (ea : Int) (n : Nat) : Except FaultRecord Unit :=
  if s.InMemory ea n then .ok () else .error ⟨.memOutOfRange, ea⟩

/-- `MemRead(ea, 1)` (00_scope.md R13). -/
def State.memRead1 (s : State) (ea : Int) : Except FaultRecord Byte := do
  s.checkRange ea 1
  pure (s.byteAt ea.toNat)

/-- `MemRead(ea, 2)`, little-endian (00_scope.md R13, 20_memory.md R66). -/
def State.memRead2 (s : State) (ea : Int) : Except FaultRecord Raw16 := do
  s.checkRange ea 2
  pure (joinBytes (s.byteAt (ea.toNat + 1)) (s.byteAt ea.toNat))

/-- `MemWrite(ea, 1, w)` (00_scope.md R13). -/
def State.memWrite1 (s : State) (ea : Int) (w : Byte) : Except FaultRecord State := do
  s.checkRange ea 1
  pure (s.setByte ea.toNat w)

/-- `MemWrite(ea, 2, val)`, little-endian (00_scope.md R13, 20_memory.md R66). -/
def State.memWrite2 (s : State) (ea : Int) (val : Raw16) : Except FaultRecord State := do
  s.checkRange ea 2
  pure ((s.setByte ea.toNat (lowByte val)).setByte (ea.toNat + 1) (highByte val))

/-! ### Registers (10_state.md) -/

/-- The content of scalar register `i`, without the checks of R24. -/
def State.scalar (s : State) (i : SIdx) : Raw16 := s.x[i.toNat]'i.isLt

/-- Scalar register `i` has been written since reset (R24). -/
def State.scalarWritten (s : State) (i : SIdx) : Bool := s.xw[i.toNat]'i.isLt

/-- `x[i] <- val`, without the checks: the 16 bits stored and the register marked written (R24). -/
def State.writeScalar (s : State) (i : SIdx) (val : Raw16) : State :=
  { s with x := s.x.set i.toNat val i.isLt, xw := s.xw.set i.toNat true i.isLt }

/-- Lane `k` (10_state.md R30; `lane` 0..3, 30_encoding.md R91). -/
def Lanes.get {α : Type} (l : Lanes α) (k : LaneIdx) : α :=
  if k = 0 then l.l0 else if k = 1 then l.l1 else if k = 2 then l.l2 else l.l3

/-- The four lanes with lane `k` replaced. -/
def Lanes.set {α : Type} (l : Lanes α) (k : LaneIdx) (a : α) : Lanes α :=
  if k = 0 then { l with l0 := a } else if k = 1 then { l with l1 := a }
  else if k = 2 then { l with l2 := a } else { l with l3 := a }

/-- The same value in all four lanes (43_vector.md R153). -/
def Lanes.all {α : Type} (a : α) : Lanes α := ⟨a, a, a, a⟩

/-- A function applied lane by lane, with no interaction between lanes (43_vector.md R150). -/
def Lanes.map₂ {α : Type} (f : α → α → α) (a b : Lanes α) : Lanes α :=
  ⟨f a.l0 b.l0, f a.l1 b.l1, f a.l2 b.l2, f a.l3 b.l3⟩

/-- The content of vector register `j`, without the checks of R31. -/
def State.vector (s : State) (j : VIdx) : Lanes Raw16 := s.v[j.toNat]'j.isLt

/-- Which lanes of vector register `j` have been written since reset (R31). -/
def State.vectorWritten (s : State) (j : VIdx) : Lanes Bool := s.vw[j.toNat]'j.isLt

/-- `v[j] <- l`, all four lanes, without the checks (R31). -/
def State.writeVector (s : State) (j : VIdx) (l : Lanes Raw16) : State :=
  { s with v := s.v.set j.toNat l j.isLt, vw := s.vw.set j.toNat (Lanes.all true) j.isLt }

/-- `v[j][k] <- val`, one lane, without the checks; the other lanes keep content and mark (R31). -/
def State.writeLane (s : State) (j : VIdx) (k : LaneIdx) (val : Raw16) : State :=
  { s with v := s.v.set j.toNat ((s.vector j).set k val) j.isLt,
           vw := s.vw.set j.toNat ((s.vectorWritten j).set k true) j.isLt }

/-- Vertex slot `n` (10_state.md R35). -/
def State.vertex (s : State) (n : Fin 3) : Vertex := s.vtx[n]

/-- The state with vertex slot `n` replaced. -/
def State.writeVertex (s : State) (n : Fin 3) (w : Vertex) : State := { s with vtx := s.vtx.set n w }

/-- Every vertex slot rewritten by the same function (45_gpu.md R173). -/
def State.mapVertices (s : State) (f : Vertex → Vertex) : State :=
  { s with vtx := #v[f (s.vertex 0), f (s.vertex 1), f (s.vertex 2)] }

/-- The active vertex slot replaced (10_state.md R36). -/
def State.setCur (s : State) (n : Fin 3) : State := { s with cur := n }

/-- The GPU status register replaced. -/
def State.setGsr (s : State) (g : Gsr) : State := { s with gsr := g }

/-- The halt flag set (10_state.md R42). -/
def State.setHalted (s : State) : State := { s with halted := true }

/-- The program counter replaced. -/
def State.setPc (s : State) (n : Int) : State := { s with pc := n }

/-! ### Fault entry and the end of an instruction -/

/-- Fault entry (60_exceptions.md R222): nothing changes but the fault register; `pc` stays. There is no return
from a fault (60_exceptions.md R223). -/
def State.takeFault (s : State) (f : FaultRecord) : State := { s with fault := some f }

/-- The control-flow result of an instruction (46_control_flow.md R192): three distinct values (R193). -/
inductive Disposition where
  | fallThrough
  | offset (n : Int)
  | absolute (n : Nat)
deriving DecidableEq, Repr

/-- The next `pc` of the step that executed word index `k` (46_control_flow.md R191): a mathematical integer,
no wrap-around. -/
def nextPc (k : Int) (disp : Disposition) : Int :=
  match disp with
  | .fallThrough => k + 1
  | .offset e => (k + 1) + e
  | .absolute t => (t : Int)

/-- The link value `u16((k + 1) << 2)` (46_control_flow.md R195). -/
def linkValue (k : Int) : Raw16 := u16 (wordToByteAddress (k + 1))

/-- The end of an instruction executed in `s` (46_control_flow.md R191): its fault is taken with none of its
writes, or its writes stand and `pc` advances. -/
def retire (s : State) (r : Except FaultRecord (State × Disposition)) : Result :=
  match r with
  | .error f => .next (s.takeFault f)
  | .ok (t, disp) => .next (t.setPc (nextPc s.pc disp))

/-- The end of a subroutine call (46_control_flow.md R191, R195): as `retire`, with the link written after the
instruction's rule and before `pc` is assigned. -/
def retireCall (s : State) (r : Except FaultRecord (State × Disposition)) : Result :=
  match r with
  | .error f => .next (s.takeFault f)
  | .ok (t, disp) => .next ((t.writeScalar s.cfg.lrIdx (linkValue s.pc)).setPc (nextPc s.pc disp))

end Sys2Proof.Machine
end

