-- ==== Sys2Proof/Machine/Operands.lean ====
section
/-! DEFINITION. The operand forms: register operands with their checks (10_state.md R24, R31), base plus signed
offset (20_memory.md R64), pc-relative and register-indirect targets (30_encoding.md R91). The index checks of
an instruction come before all its reads (00_scope.md R14, 60_exceptions.md R226), so the two are separate. -/

namespace Sys2Proof.Machine

/-- Checks (1) and (2) of R24 on a scalar index field: it exists, and it is not the reserved index. -/
def State.checkScalar (s : State) (i : SIdx) : Except FaultRecord Unit :=
  if s.cfg.nsreg ≤ i.toNat then .error ⟨.scalarIndexOutOfRange, i.toNat⟩
  else if i = s.cfg.pcIdx then .error ⟨.reservedRegister, i.toNat⟩
  else .ok ()

/-- `x[i]` has a value to read: it was written since reset, or `RESET_REGS = zero` (R24 check 3). -/
abbrev State.ScalarDefined (s : State) (i : SIdx) : Prop :=
  s.cfg.resetRegs = .zero ∨ s.scalarWritten i = true

/-- The read of `x[i]` after its index check (R24 check 3). -/
def State.readScalar (s : State) (i : SIdx) : Except FaultRecord Raw16 :=
  if s.ScalarDefined i then .ok (s.scalar i) else .error ⟨.undefinedRead, i.toNat⟩

/-- Check (1) of R31 on a vector index field. -/
def State.checkVector (s : State) (j : VIdx) : Except FaultRecord Unit :=
  if s.cfg.nvreg ≤ j.toNat then .error ⟨.vectorIndexOutOfRange, j.toNat⟩ else .ok ()

/-- `v[j][k]` has a value to read (R31 check 2). -/
abbrev State.LaneDefined (s : State) (j : VIdx) (k : LaneIdx) : Prop :=
  s.cfg.resetRegs = .zero ∨ (s.vectorWritten j).get k = true

/-- The read of lane `k` of `v[j]` after its index check (R31 check 2). -/
def State.readLane (s : State) (j : VIdx) (k : LaneIdx) : Except FaultRecord Raw16 :=
  if s.LaneDefined j k then .ok ((s.vector j).get k) else .error ⟨.undefinedRead, 64 + j.toNat⟩

/-- The read of all four lanes of `v[j]`, in the order 0..3 (60_exceptions.md R226). -/
def State.readVector (s : State) (j : VIdx) : Except FaultRecord (Lanes Raw16) := do
  let a ← s.readLane j 0
  let b ← s.readLane j 1
  let c ← s.readLane j 2
  let d ← s.readLane j 3
  pure ⟨a, b, c, d⟩

/-- `EA = x[s1] + s16(imm)`: base unsigned, offset signed, no wrap-around (20_memory.md R64). -/
def effectiveAddress (base imm : Raw16) : Int := (base.toNat : Int) + s16 imm

/-- The signed word offset of a branch or JSR (30_encoding.md R90). -/
def wordOffset (imm : Raw16) : Disposition := .offset (s16 imm)

/-- The target of JMP and JSRR: the register holds a byte address (46_control_flow.md R210). -/
def registerTarget (a : Raw16) : Disposition := .absolute (byteToWordIndex a)

/-- JSRR's check on its target register: the link register is refused by a fault (46_control_flow.md R212). -/
def State.checkNotLink (s : State) (i : SIdx) : Except FaultRecord Unit :=
  if i = s.cfg.lrIdx then .error ⟨.unpredictableOperand, i.toNat⟩ else .ok ()

end Sys2Proof.Machine
end

