-- ==== Sys2Proof/Machine/Flags.lean ====
section
/-! DEFINITION. The condition code: `SetCC` (40_numeric.md R124), its read by a branch (46_control_flow.md R200),
and the flag sets of the branches. -/

namespace Sys2Proof.Machine

/-- The flag `SetCC(a, b)` sets (40_numeric.md R124). -/
def compareFlag (a b : Int) : CC := if a < b then .N else if a = b then .Z else .P

/-- `SetCC(a, b)`: the only way `cc` is written (R124). -/
def State.setCC (s : State) (a b : Int) : State := { s with cc := compareFlag a b, ccw := true }

/-- `SetCC(s16(result), 0)` (R124). -/
def State.setCCResult (s : State) (r : Raw16) : State := s.setCC (s16 r) 0

/-- `cc` has a value to read (46_control_flow.md R200). -/
abbrev State.CCDefined (s : State) : Prop := s.cfg.resetRegs = .zero ∨ s.ccw = true

/-- A branch's read of `cc` (46_control_flow.md R200). -/
def State.readCC (s : State) : Except FaultRecord CC :=
  if s.CCDefined then .ok s.cc else .error ⟨.undefinedRead, 128⟩

/-- The end of a branch whose flag set is `T`: taken exactly when `cc ∈ T` (46_control_flow.md R200). -/
def branchOn (T : List CC) (imm : Raw16) (s : State) : Result :=
  retire s do
    let c ← s.readCC
    pure (s, if c ∈ T then wordOffset imm else .fallThrough)

end Sys2Proof.Machine
end

