-- ==== Sys2Proof/Machine/Control.lean ====
section
/-! DEFINITION. The branches, jumps and calls, HALT and the unrecognized opcode (46_control_flow.md R200 to
R215). -/

namespace Sys2Proof.Machine

/-- BRN, `T = {N}` (R201). -/
def execBrn (imm : Raw16) (s : State) : Result := branchOn [.N] imm s

/-- BRZ, `T = {Z}` (R202). -/
def execBrz (imm : Raw16) (s : State) : Result := branchOn [.Z] imm s

/-- BRP, `T = {P}` (R203). -/
def execBrp (imm : Raw16) (s : State) : Result := branchOn [.P] imm s

/-- BRNZ, `T = {N, Z}` (R204). -/
def execBrnz (imm : Raw16) (s : State) : Result := branchOn [.N, .Z] imm s

/-- BRNP, `T = {N, P}` (R205). -/
def execBrnp (imm : Raw16) (s : State) : Result := branchOn [.N, .P] imm s

/-- BRZP, `T = {Z, P}` (R206). -/
def execBrzp (imm : Raw16) (s : State) : Result := branchOn [.Z, .P] imm s

/-- BRNZP: always taken, `cc` not read (R207). -/
def execBrnzp (imm : Raw16) (s : State) : Result := retire s (.ok (s, wordOffset imm))

/-- JMP: to the byte address in `x[s1]` (R210). -/
def execJmp (s1 : SIdx) (s : State) : Result :=
  retire s do
    s.checkScalar s1
    let a ← s.readScalar s1
    pure (s, registerTarget a)

/-- JSR: pc-relative call (R211). -/
def execJsr (imm : Raw16) (s : State) : Result := retireCall s (.ok (s, wordOffset imm))

/-- JSRR: call to the byte address in `x[s1]`, read before the link is written (R212). -/
def execJsrr (s1 : SIdx) (s : State) : Result :=
  retireCall s do
    s.checkScalar s1
    s.checkNotLink s1
    let a ← s.readScalar s1
    pure (s, registerTarget a)

/-- HALT: the halt flag set, and the step's advance of `pc` performed (R214). -/
def execHalt (s : State) : Result := retire s (.ok (s.setHalted, .fallThrough))

/-- `NOP(op)`, the unrecognized opcode: only `pc` changes (R215); its report is `unknownOpcode`. -/
def execNop (_op : OpByte) (s : State) : Result := retire s (.ok (s, .fallThrough))

end Sys2Proof.Machine
end

