-- ==== Sys2Proof/Machine/Gpu.lean ====
section
/-! DEFINITION. The GPU vertex, color and status instructions (45_gpu.md R170 to R182). They only fill
registers; the renderer that reads them is outside the core (00_scope.md R6 c). -/

namespace Sys2Proof.Machine

/-- SETVERTEX: lanes 1, 2, 3 shifted right logically by 4 into the position of slot `cur`, which then advances
modulo 3 (R170; the sum of `Fin 3` is taken modulo 3). -/
def execSetvertex (vd : VIdx) (s : State) : Result :=
  retire s do
    s.checkVector vd
    let a ← s.readLane vd 1
    let b ← s.readLane vd 2
    let c ← s.readLane vd 3
    let t := s.writeVertex s.cur { s.vertex s.cur with x := shr4 a, y := shr4 b, z := shr4 c }
    pure (t.setCur (s.cur + 1), .fallThrough)

/-- SETCOLOR: lanes 0, 1, 2 shifted right logically by 4 into the color of slot 0, whatever `cur` (R171). -/
def execSetcolor (vd : VIdx) (s : State) : Result :=
  retire s do
    s.checkVector vd
    let a ← s.readLane vd 0
    let b ← s.readLane vd 1
    let c ← s.readLane vd 2
    pure (s.writeVertex 0 { s.vertex 0 with r := shr4 a, g := shr4 b, b := shr4 c }, .fallThrough)

/-- ROTATE: a placeholder; its operand is not accessed (R172). -/
def execRotate (_vd : VIdx) (s : State) : Result := retire s (.ok (s, .fallThrough))

/-- TRANSLATE: the truncated deltas of lanes 1 and 2 added to x and y of all three slots (R173). -/
def execTranslate (vd : VIdx) (s : State) : Result :=
  retire s do
    s.checkVector vd
    let a ← s.readLane vd 1
    let b ← s.readLane vd 2
    pure (s.mapVertices fun w =>
      { w with x := add16 w.x (fixedToTruncatedInt a), y := add16 w.y (fixedToTruncatedInt b) }, .fallThrough)

/-- SCALE: a placeholder; its operand is not accessed (R174). -/
def execScale (_vd : VIdx) (s : State) : Result := retire s (.ok (s, .fallThrough))

/-- BEGINPRIMITIVE: any nonzero selector is a triangle, zero a line (R180). -/
def execBeginprimitive (prim : PrimSel) (s : State) : Result :=
  retire s (.ok (s.setGsr { s.gsr with TRIANGLE := prim != 0, LINE := prim == 0 }, .fallThrough))

/-- FLUSH (R181). -/
def execFlush (s : State) : Result :=
  retire s (.ok (s.setGsr { s.gsr with FLUSH := true, DRAW := false }, .fallThrough))

/-- DRAW (R182). -/
def execDraw (s : State) : Result :=
  retire s (.ok (s.setGsr { s.gsr with DRAW := true, FLUSH := false }, .fallThrough))

end Sys2Proof.Machine
end

