-- ==== Sys2Proof/Machine/LoadStore.lean ====
section
/-! DEFINITION. The load and store instructions (44_load_store.md R160 to R163). -/

namespace Sys2Proof.Machine

/-- LDB: one byte, zero-extended (R160). -/
def execLdb (d s1 : SIdx) (imm : Raw16) (s : State) : Result :=
  retire s do
    s.checkScalar d
    s.checkScalar s1
    let base ← s.readScalar s1
    let b ← s.memRead1 (effectiveAddress base imm)
    pure ((s.writeScalar d (zext16 b)).setCCResult (zext16 b), .fallThrough)

/-- LDW: two bytes, little-endian (R161). -/
def execLdw (d s1 : SIdx) (imm : Raw16) (s : State) : Result :=
  retire s do
    s.checkScalar d
    s.checkScalar s1
    let base ← s.readScalar s1
    let r ← s.memRead2 (effectiveAddress base imm)
    pure ((s.writeScalar d r).setCCResult r, .fallThrough)

/-- STB: the low 8 bits of `x[d]`; the flags unchanged (R162). -/
def execStb (d s1 : SIdx) (imm : Raw16) (s : State) : Result :=
  retire s do
    s.checkScalar d
    s.checkScalar s1
    let val ← s.readScalar d
    let base ← s.readScalar s1
    let t ← s.memWrite1 (effectiveAddress base imm) (lowByte val)
    pure (t, .fallThrough)

/-- STW: `x[d]`, little-endian; the flags unchanged (R163). -/
def execStw (d s1 : SIdx) (imm : Raw16) (s : State) : Result :=
  retire s do
    s.checkScalar d
    s.checkScalar s1
    let val ← s.readScalar d
    let base ← s.readScalar s1
    let t ← s.memWrite2 (effectiveAddress base imm) val
    pure (t, .fallThrough)

end Sys2Proof.Machine
end

