-- ==== Sys2Proof/Machine/MoveCompare.lean ====
section
/-! DEFINITION. The scalar move and compare instructions (42_move_compare.md R140 to R144). -/

namespace Sys2Proof.Machine

/-- `x[md] <- imm` with the flags of the value (R141). -/
def moveImmediate (md : SIdx) (imm : Raw16) (s : State) : Result :=
  retire s do
    s.checkScalar md
    pure ((s.writeScalar md imm).setCCResult imm, .fallThrough)

/-- MOV (R140). -/
def execMov (md ms : SIdx) (s : State) : Result :=
  retire s do
    s.checkScalar md
    s.checkScalar ms
    let r ← s.readScalar ms
    pure ((s.writeScalar md r).setCCResult r, .fallThrough)

/-- MOVI_D (R141). -/
def execMoviD (md : SIdx) (imm : Raw16) (s : State) : Result := moveImmediate md imm s

/-- MOVI_F: the raw pattern, as MOVI_D (R142). -/
def execMoviF (md : SIdx) (imm : Raw16) (s : State) : Result := moveImmediate md imm s

/-- CMP: the signed comparison of two registers, no destination (R143). -/
def execCmp (s1 s2 : SIdx) (s : State) : Result :=
  retire s do
    s.checkScalar s1
    s.checkScalar s2
    let a ← s.readScalar s1
    let b ← s.readScalar s2
    pure (s.setCC (s16 a) (s16 b), .fallThrough)

/-- CMPI: the signed comparison of a register with the sign-extended immediate (R144). -/
def execCmpi (s1 : SIdx) (imm : Raw16) (s : State) : Result :=
  retire s do
    s.checkScalar s1
    let a ← s.readScalar s1
    pure (s.setCC (s16 a) (s16 imm), .fallThrough)

end Sys2Proof.Machine
end

