-- ==== Sys2Proof/Machine/ScalarAlu.lean ====
section
/-! DEFINITION. The scalar arithmetic and logic instructions (41_scalar_alu.md R130 to R135). -/

namespace Sys2Proof.Machine

/-- `x[d] <- f(x[s1], x[s2])` with the flags of the result: the family's three-register form (R130). -/
def aluRegister (f : Raw16 → Raw16 → Raw16) (d s1 s2 : SIdx) (s : State) : Result :=
  retire s do
    s.checkScalar d
    s.checkScalar s1
    s.checkScalar s2
    let a ← s.readScalar s1
    let b ← s.readScalar s2
    pure ((s.writeScalar d (f a b)).setCCResult (f a b), .fallThrough)

/-- `x[d] <- f(x[s1], imm)` with the flags of the result: the family's immediate form (R132). -/
def aluImmediate (f : Raw16 → Raw16 → Raw16) (d s1 : SIdx) (imm : Raw16) (s : State) : Result :=
  retire s do
    s.checkScalar d
    s.checkScalar s1
    let a ← s.readScalar s1
    pure ((s.writeScalar d (f a imm)).setCCResult (f a imm), .fallThrough)

/-- ADD_D (R130). -/
def execAddD (d s1 s2 : SIdx) (s : State) : Result := aluRegister add16 d s1 s2 s

/-- ADD_F: the integer addition of ADD_D (R131). -/
def execAddF (d s1 s2 : SIdx) (s : State) : Result := aluRegister add16 d s1 s2 s

/-- ADDI_D (R132). -/
def execAddiD (d s1 : SIdx) (imm : Raw16) (s : State) : Result := aluImmediate addImm16 d s1 imm s

/-- ADDI_F: the integer addition of ADDI_D (R133). -/
def execAddiF (d s1 : SIdx) (imm : Raw16) (s : State) : Result := aluImmediate addImm16 d s1 imm s

/-- AND_D (R134). -/
def execAndD (d s1 s2 : SIdx) (s : State) : Result := aluRegister (fun a b => a &&& b) d s1 s2 s

/-- ANDI_D (R135). -/
def execAndiD (d s1 : SIdx) (imm : Raw16) (s : State) : Result := aluImmediate (fun a b => a &&& b) d s1 imm s

end Sys2Proof.Machine
end

