-- ==== Sys2Proof/Machine/VectorUnit.lean ====
section
/-! DEFINITION. The vector instructions (43_vector.md R150 to R155). None reads or writes `cc`. -/

namespace Sys2Proof.Machine

/-- VADD: lane-wise 16-bit addition (R151). -/
def execVadd (vd vs1 vs2 : VIdx) (s : State) : Result :=
  retire s do
    s.checkVector vd
    s.checkVector vs1
    s.checkVector vs2
    let a ← s.readVector vs1
    let b ← s.readVector vs2
    pure (s.writeVector vd (Lanes.map₂ add16 a b), .fallThrough)

/-- VMOV (R152). -/
def execVmov (vd vs1 : VIdx) (s : State) : Result :=
  retire s do
    s.checkVector vd
    s.checkVector vs1
    let a ← s.readVector vs1
    pure (s.writeVector vd a, .fallThrough)

/-- VMOVI: the immediate into all four lanes (R153). -/
def execVmovi (vd : VIdx) (imm : Raw16) (s : State) : Result :=
  retire s do
    s.checkVector vd
    pure (s.writeVector vd (Lanes.all imm), .fallThrough)

/-- VCOMPMOV: a scalar register into one lane (R154). -/
def execVcompmov (lane : LaneIdx) (vd : VIdx) (s2 : SIdx) (s : State) : Result :=
  retire s do
    s.checkVector vd
    s.checkScalar s2
    let t ← s.readScalar s2
    pure (s.writeLane vd lane t, .fallThrough)

/-- VCOMPMOVI: the immediate into one lane (R155). -/
def execVcompmovi (lane : LaneIdx) (vd : VIdx) (imm : Raw16) (s : State) : Result :=
  retire s do
    s.checkVector vd
    pure (s.writeLane vd lane imm, .fallThrough)

end Sys2Proof.Machine
end

