-- ==== Sys2Proof/Machine/Dispatch.lean ====
section
/-! DEFINITION. One arm per instruction: its meaning. -/

namespace Sys2Proof.Machine

def exec (i : Instr) (s : State) : Host.Outcome State Fault Refusal :=
  match i with
  | .addD d s1 s2 => Sys2Proof.Machine.execAddD d s1 s2 s
  | .addF d s1 s2 => Sys2Proof.Machine.execAddF d s1 s2 s
  | .addiD d s1 imm => Sys2Proof.Machine.execAddiD d s1 imm s
  | .addiF d s1 imm => Sys2Proof.Machine.execAddiF d s1 imm s
  | .vadd vd vs1 vs2 => Sys2Proof.Machine.execVadd vd vs1 vs2 s
  | .andD d s1 s2 => Sys2Proof.Machine.execAndD d s1 s2 s
  | .andiD d s1 imm => Sys2Proof.Machine.execAndiD d s1 imm s
  | .mov md ms => Sys2Proof.Machine.execMov md ms s
  | .moviD md imm => Sys2Proof.Machine.execMoviD md imm s
  | .moviF md imm => Sys2Proof.Machine.execMoviF md imm s
  | .vmov vd vs1 => Sys2Proof.Machine.execVmov vd vs1 s
  | .vmovi vd imm => Sys2Proof.Machine.execVmovi vd imm s
  | .cmp s1 s2 => Sys2Proof.Machine.execCmp s1 s2 s
  | .cmpi s1 imm => Sys2Proof.Machine.execCmpi s1 imm s
  | .vcompmov lane vd s2 => Sys2Proof.Machine.execVcompmov lane vd s2 s
  | .vcompmovi lane vd imm => Sys2Proof.Machine.execVcompmovi lane vd imm s
  | .ldb d s1 imm => Sys2Proof.Machine.execLdb d s1 imm s
  | .ldw d s1 imm => Sys2Proof.Machine.execLdw d s1 imm s
  | .stb d s1 imm => Sys2Proof.Machine.execStb d s1 imm s
  | .stw d s1 imm => Sys2Proof.Machine.execStw d s1 imm s
  | .setvertex vd => Sys2Proof.Machine.execSetvertex vd s
  | .setcolor vd => Sys2Proof.Machine.execSetcolor vd s
  | .rotate vd => Sys2Proof.Machine.execRotate vd s
  | .translate vd => Sys2Proof.Machine.execTranslate vd s
  | .scale vd => Sys2Proof.Machine.execScale vd s
  | .beginprimitive prim => Sys2Proof.Machine.execBeginprimitive prim s
  | .flush => Sys2Proof.Machine.execFlush s
  | .draw => Sys2Proof.Machine.execDraw s
  | .brn imm => Sys2Proof.Machine.execBrn imm s
  | .brz imm => Sys2Proof.Machine.execBrz imm s
  | .brp imm => Sys2Proof.Machine.execBrp imm s
  | .brnz imm => Sys2Proof.Machine.execBrnz imm s
  | .brnp imm => Sys2Proof.Machine.execBrnp imm s
  | .brzp imm => Sys2Proof.Machine.execBrzp imm s
  | .brnzp imm => Sys2Proof.Machine.execBrnzp imm s
  | .jmp s1 => Sys2Proof.Machine.execJmp s1 s
  | .jsr imm => Sys2Proof.Machine.execJsr imm s
  | .jsrr s1 => Sys2Proof.Machine.execJsrr s1 s
  | .halt => Sys2Proof.Machine.execHalt s

end Sys2Proof.Machine
end

