-- ==== Sys2Proof/Machine/Driver.lean ====
section
/-! DEFINITION. The parts of the step (46_control_flow.md R190, R191): when there is no step, the fetch, and
what runs; the per-step report (R215); where the next instruction is fetched from; the loader's admission. -/

namespace Sys2Proof.Machine

/-- Why there is no step, when `halted = 1` or a fault is recorded (R190). -/
def stopReason (s : State) : Option Fault :=
  if s.halted then some .halted else s.fault.map Fault.faulted

/-- The instruction space at word index `k`, if `0 <= k < L` (20_memory.md R62). -/
def programWord (prog : List IWord) (k : Int) : Option IWord := if k < 0 then none else prog[k.toNat]?

/-- The fetch of a step, with its check `PcOutOfRange(pc)` (R191). -/
def fetch (s : State) : Except FaultRecord IWord :=
  match programWord s.prog s.pc with
  | some iw => .ok iw
  | none => .error ⟨.pcOutOfRange, s.pc⟩

/-- What executes for a decoded word (R191, R215). -/
def execDecoded (i : Decoded) (s : State) : Result :=
  match i with
  | .instr i => exec i s
  | .nop op => execNop op s

/-- One step of R191 for a state that may step: fetch, decode, execute; a fetch fault is taken. -/
def stepRunning (s : State) : Result :=
  match fetch s with
  | .error f => .next (s.takeFault f)
  | .ok iw => execDecoded (decode s.cfg.opc iw) s

/-- The report `unknown_opcode` of the step taken from `s` (R215, 30_encoding.md R100): an output of the step,
not state (log 6). -/
def unknownOpcode (s : State) : Option OpByte :=
  if (stopReason s).isSome then none
  else match fetch s with
    | .error _ => none
    | .ok iw =>
      match decode s.cfg.opc iw with
      | .instr _ => none
      | .nop op => some op

/-- The program with `iw` at word index `k`, lengthened with zero words up to there if it is shorter. -/
def placeWord : List IWord → Nat → IWord → List IWord
  | [], 0, iw => [iw]
  | _ :: rest, 0, iw => iw :: rest
  | [], k + 1, iw => 0 :: placeWord [] k iw
  | w :: rest, k + 1, iw => w :: placeWord rest k iw

/-- `s` made ready to fetch `iw` next: running, `pc` at an index the instruction space can have (its own, or 0),
and `iw` there (log 3). -/
def withNextWord (s : State) (iw : IWord) : State :=
  let k : Int := if 0 ≤ s.pc ∧ s.pc < (maxProgramLength : Int) then s.pc else 0
  { s with prog := placeWord s.prog k.toNat iw, pc := k, halted := false, fault := none }

/-- The start of a run (70_reset_and_hazards.md R250, R255): the reset state for a program and parameters the
core admits (00_scope.md R8), a refusal otherwise. -/
def State.boot (c : Config) (prog : List IWord) (p : PowerOn) : Result :=
  if c.Valid then
    if prog.length ≤ maxProgramLength then .next (State.resetWith c prog p) else .refused .programTooLong
  else .refused .parametersNotAdmitted

end Sys2Proof.Machine
end

