-- ==== Sys2Proof/Machine/Step.lean ====
section
/-! DEFINITION. One step of the core (46_control_flow.md R190, R191), and a state whose next step runs a given
instruction. -/

namespace Sys2Proof.Machine

/-- One step: none while `halted = 1` or a fault is recorded (R190), else fetch, decode, execute (R191). -/
def step (s : State) : Host.Outcome State Fault Refusal :=
  match stopReason s with
  | some r => .fault r
  | none => stepRunning s

/-- `s` with the instruction whose bits are `w` where `step` fetches next (log 3). -/
def State.withFetchWord (s : State) (nbits w : Nat) : State := withNextWord s (tableWord nbits w)

end Sys2Proof.Machine
end

