-- ==== Sys2Proof/Machine/Snapshot.lean ====
section
/-! DEFINITION. The post-step snapshot (10_state.md R51): a read-only output, a function of the states before
and after a step (log 7). -/

namespace Sys2Proof.Machine

/-- The three flags as a 3-bit value: N = bit 2, Z = bit 1, P = bit 0 (10_state.md R28). -/
def ccBits : CC → BitVec 3
  | .none => 0b000
  | .N => 0b100
  | .Z => 0b010
  | .P => 0b001

/-- `gsr` as a 4-bit value: LINE bit 0, TRIANGLE bit 1, DRAW bit 2, FLUSH bit 3 (10_state.md R40). -/
def gsrBits (g : Gsr) : BitVec 4 :=
  BitVec.ofBool g.FLUSH ++ BitVec.ofBool g.DRAW ++ BitVec.ofBool g.TRIANGLE ++ BitVec.ofBool g.LINE

/-- The entry of the snapshot for scalar index `i`: `u16(pc)` at `PC_IDX`, else `x[i]` (10_state.md R51). -/
def snapshotScalar (s : State) (i : Fin 16) : Raw16 :=
  if i.val = s.cfg.pcIdx.toNat then u16 s.pc else s.x[i]

/-- What the snapshot shows (10_state.md R51); the per-index display convention belongs to the excluded trace
printer (00_scope.md R6 b). -/
structure Snapshot where
  currentPc : Int
  currentPcBytes : Int
  nextPc : Int
  nextPcBytes : Int
  currentOpcode : Option OpByte
  scalars : List Raw16
  cc : BitVec 3
  gsr : BitVec 4
  vectors : List (Lanes Raw16)
  vertices : List Vertex
deriving DecidableEq, Repr

/-- The snapshot after the step from `before` to `after` (10_state.md R51). Under `RESET_REGS = undefined`, R52 gives
a scalar register, a lane or `cc` that nothing has written since reset no value, and R51 does not say what the
snapshot shows for it: here it shows the arbitrary content that the state after reset was given for it
(`PowerOn`; DESIGN CHOICE, log 14). -/
def snapshot (before after : State) : Snapshot where
  currentPc := before.pc
  currentPcBytes := wordToByteAddress before.pc
  nextPc := after.pc
  nextPcBytes := wordToByteAddress after.pc
  currentOpcode := (programWord before.prog before.pc).map fieldOp
  scalars := ((List.finRange 16).map (snapshotScalar after)).take after.cfg.nsreg
  cc := ccBits after.cc
  gsr := gsrBits after.gsr
  vectors := after.v.toList.take after.cfg.nvreg
  vertices := after.vtx.toList

end Sys2Proof.Machine
end

