-- ==== Sys2Proof/WellFormed.lean ====
section
/-! DEFINITION. Which instructions name only registers that exist and that an operand field may name.
The decoder checks nothing (30_encoding.md R81, R101): every `Instr` is decodable, and an ill-formed one is
executable; it takes the fault that the failing check names (10_state.md R24, R31; 46_control_flow.md R212). -/

namespace Sys2Proof

/-- The scalar index `i` passes the two stateless checks of R24: `i < NSREG` and `i ≠ PC_IDX`. -/
abbrev Config.NamesScalar (c : Config) (i : SIdx) : Prop := i.toNat < c.nsreg ∧ i ≠ c.pcIdx

/-- The vector index `j` passes the stateless check of R31: `j < NVREG`. -/
abbrev Config.NamesVector (c : Config) (j : VIdx) : Prop := j.toNat < c.nvreg

/-- Every register field the instruction USES passes its stateless checks, and JSRR does not name the link
register (R212). ROTATE and SCALE use no field (45_gpu.md R172, R174). -/
abbrev Instr.WellFormed (c : Config) (i : Instr) : Prop :=
  match i with
  | .addD d s1 s2 => c.NamesScalar d ∧ c.NamesScalar s1 ∧ c.NamesScalar s2
  | .addF d s1 s2 => c.NamesScalar d ∧ c.NamesScalar s1 ∧ c.NamesScalar s2
  | .addiD d s1 _ => c.NamesScalar d ∧ c.NamesScalar s1
  | .addiF d s1 _ => c.NamesScalar d ∧ c.NamesScalar s1
  | .vadd vd vs1 vs2 => c.NamesVector vd ∧ c.NamesVector vs1 ∧ c.NamesVector vs2
  | .andD d s1 s2 => c.NamesScalar d ∧ c.NamesScalar s1 ∧ c.NamesScalar s2
  | .andiD d s1 _ => c.NamesScalar d ∧ c.NamesScalar s1
  | .mov md ms => c.NamesScalar md ∧ c.NamesScalar ms
  | .moviD md _ => c.NamesScalar md
  | .moviF md _ => c.NamesScalar md
  | .vmov vd vs1 => c.NamesVector vd ∧ c.NamesVector vs1
  | .vmovi vd _ => c.NamesVector vd
  | .cmp s1 s2 => c.NamesScalar s1 ∧ c.NamesScalar s2
  | .cmpi s1 _ => c.NamesScalar s1
  | .vcompmov _ vd s2 => c.NamesVector vd ∧ c.NamesScalar s2
  | .vcompmovi _ vd _ => c.NamesVector vd
  | .ldb d s1 _ => c.NamesScalar d ∧ c.NamesScalar s1
  | .ldw d s1 _ => c.NamesScalar d ∧ c.NamesScalar s1
  | .stb d s1 _ => c.NamesScalar d ∧ c.NamesScalar s1
  | .stw d s1 _ => c.NamesScalar d ∧ c.NamesScalar s1
  | .setvertex vd => c.NamesVector vd
  | .setcolor vd => c.NamesVector vd
  | .rotate _ => True
  | .translate vd => c.NamesVector vd
  | .scale _ => True
  | .beginprimitive _ => True
  | .flush => True
  | .draw => True
  | .brn _ => True
  | .brz _ => True
  | .brp _ => True
  | .brnz _ => True
  | .brnp _ => True
  | .brzp _ => True
  | .brnzp _ => True
  | .jmp s1 => c.NamesScalar s1
  | .jsr _ => True
  | .jsrr s1 => c.NamesScalar s1 ∧ s1 ≠ c.lrIdx
  | .halt => True

end Sys2Proof
end

