-- ==== Sys2Proof/Safety.lean ====
section
/-! DEFINITION. What counts as a safe state and a safe run, and the terms in which claims speak of an
instruction: its operands, the fault it takes, and what it leaves unchanged. -/

namespace Sys2Proof.Machine

/-! ### Runs (00_scope.md R18, R19) -/

/-- The core steps (46_control_flow.md R190). -/
abbrev Running (s : State) : Prop := s.halted = false ∧ s.fault = none

/-- The run has ended normally (00_scope.md R19). -/
abbrev EndedNormally (s : State) : Prop := s.halted = true ∧ s.fault = none

/-- The parameters and the program are ones the core admits (00_scope.md R8, 70_reset_and_hazards.md R255). -/
abbrev Admitted (s : State) : Prop := s.cfg.Valid ∧ s.prog.length ≤ maxProgramLength

/-- `StateInv`: the conditions every state of an admitted run meets, in the words of the rules each line cites. -/
structure StateInv (s : State) : Prop where
  /-- 00_scope.md R8, 70_reset_and_hazards.md R255. -/
  admitted : Admitted s
  /-- The memory's canonical form. -/
  memCanonical : s.mem.WF
  /-- Only addresses of the data space hold anything (20_memory.md R61). -/
  memInRange : ∀ c ∈ s.mem, c.1 < s.cfg.memsize
  /-- `DRAW` and `FLUSH` are never both 1 (10_state.md R41). -/
  drawFlush : ¬(s.gsr.DRAW = true ∧ s.gsr.FLUSH = true)
  /-- `LINE` and `TRIANGLE` are never both 1 (10_state.md R41). -/
  lineTriangle : ¬(s.gsr.LINE = true ∧ s.gsr.TRIANGLE = true)
  /-- One flag is set once `cc` has been written (10_state.md R28). -/
  oneFlag : s.ccw = true → s.cc ≠ .none
  /-- The bounds of `pc` (46_control_flow.md R191). -/
  pcBounds : -32767 ≤ s.pc ∧ s.pc ≤ 49150

/-! ### Operands -/

/-- Scalar register `i` may be named and has a value to read (10_state.md R24). -/
abbrev ScalarReadable (s : State) (i : SIdx) : Prop := s.cfg.NamesScalar i ∧ s.ScalarDefined i

/-- Every lane of vector register `j` can be read (10_state.md R31). -/
abbrev VectorReadable (s : State) (j : VIdx) : Prop := s.cfg.NamesVector j ∧ ∀ k, s.LaneDefined j k

/-- The address a load or store with base register `s1` reaches in `s` (20_memory.md R64). -/
def accessAddress (s : State) (s1 : SIdx) (imm : Raw16) : Int := effectiveAddress (s.scalar s1) imm

/-! ### The fault an instruction takes (60_exceptions.md R221, R226) -/

/-- The first failing check of a scalar index field: range before reserved (R226). -/
def scalarFieldFault (c : Config) (i : SIdx) : Option FaultRecord :=
  if i.toNat ≥ c.nsreg then some ⟨.scalarIndexOutOfRange, i.toNat⟩
  else if i = c.pcIdx then some ⟨.reservedRegister, i.toNat⟩ else none

/-- The failing check of a vector index field. -/
def vectorFieldFault (c : Config) (j : VIdx) : Option FaultRecord :=
  if j.toNat ≥ c.nvreg then some ⟨.vectorIndexOutOfRange, j.toNat⟩ else none

/-- JSRR's target is the link register (R226, 3). -/
def linkFieldFault (c : Config) (i : SIdx) : Option FaultRecord :=
  if i = c.lrIdx then some ⟨.unpredictableOperand, i.toNat⟩ else none

/-- The field checks of an instruction in the order its rule lists them (R226, 2 and 3). -/
def fieldFaults (c : Config) (i : Instr) : List (Option FaultRecord) :=
  match i with
  | .addD d s1 s2 => [scalarFieldFault c d, scalarFieldFault c s1, scalarFieldFault c s2]
  | .addF d s1 s2 => [scalarFieldFault c d, scalarFieldFault c s1, scalarFieldFault c s2]
  | .addiD d s1 _ => [scalarFieldFault c d, scalarFieldFault c s1]
  | .addiF d s1 _ => [scalarFieldFault c d, scalarFieldFault c s1]
  | .vadd vd vs1 vs2 => [vectorFieldFault c vd, vectorFieldFault c vs1, vectorFieldFault c vs2]
  | .andD d s1 s2 => [scalarFieldFault c d, scalarFieldFault c s1, scalarFieldFault c s2]
  | .andiD d s1 _ => [scalarFieldFault c d, scalarFieldFault c s1]
  | .mov md ms => [scalarFieldFault c md, scalarFieldFault c ms]
  | .moviD md _ => [scalarFieldFault c md]
  | .moviF md _ => [scalarFieldFault c md]
  | .vmov vd vs1 => [vectorFieldFault c vd, vectorFieldFault c vs1]
  | .vmovi vd _ => [vectorFieldFault c vd]
  | .cmp s1 s2 => [scalarFieldFault c s1, scalarFieldFault c s2]
  | .cmpi s1 _ => [scalarFieldFault c s1]
  | .vcompmov _ vd s2 => [vectorFieldFault c vd, scalarFieldFault c s2]
  | .vcompmovi _ vd _ => [vectorFieldFault c vd]
  | .ldb d s1 _ => [scalarFieldFault c d, scalarFieldFault c s1]
  | .ldw d s1 _ => [scalarFieldFault c d, scalarFieldFault c s1]
  | .stb d s1 _ => [scalarFieldFault c d, scalarFieldFault c s1]
  | .stw d s1 _ => [scalarFieldFault c d, scalarFieldFault c s1]
  | .setvertex vd => [vectorFieldFault c vd]
  | .setcolor vd => [vectorFieldFault c vd]
  | .rotate _ => []
  | .translate vd => [vectorFieldFault c vd]
  | .scale _ => []
  | .beginprimitive _ => []
  | .flush => []
  | .draw => []
  | .brn _ => []
  | .brz _ => []
  | .brp _ => []
  | .brnz _ => []
  | .brnp _ => []
  | .brzp _ => []
  | .brnzp _ => []
  | .jmp s1 => [scalarFieldFault c s1]
  | .jsr _ => []
  | .jsrr s1 => [scalarFieldFault c s1, linkFieldFault c s1]
  | .halt => []

/-- A scalar register read before it is written, under `RESET_REGS = undefined` (10_state.md R24, 3). -/
def scalarReadFault (s : State) (i : SIdx) : Option FaultRecord :=
  if s.cfg.resetRegs = .undefined ∧ s.scalarWritten i = false then some ⟨.undefinedRead, i.toNat⟩ else none

/-- A lane read before it is written, under `RESET_REGS = undefined` (10_state.md R31, 2). -/
def laneReadFault (s : State) (j : VIdx) (k : LaneIdx) : Option FaultRecord :=
  if s.cfg.resetRegs = .undefined ∧ (s.vectorWritten j).get k = false then some ⟨.undefinedRead, 64 + j.toNat⟩
  else none

/-- `cc` read before it is written, under `RESET_REGS = undefined` (46_control_flow.md R200). -/
def ccReadFault (s : State) : Option FaultRecord :=
  if s.cfg.resetRegs = .undefined ∧ s.ccw = false then some ⟨.undefinedRead, 128⟩ else none

/-- The source reads of an instruction in the order its rule lists them (60_exceptions.md R226, 4). -/
def readFaults (s : State) (i : Instr) : List (Option FaultRecord) :=
  match i with
  | .addD _ s1 s2 => [scalarReadFault s s1, scalarReadFault s s2]
  | .addF _ s1 s2 => [scalarReadFault s s1, scalarReadFault s s2]
  | .addiD _ s1 _ => [scalarReadFault s s1]
  | .addiF _ s1 _ => [scalarReadFault s s1]
  | .vadd _ vs1 vs2 =>
    [laneReadFault s vs1 0, laneReadFault s vs1 1, laneReadFault s vs1 2, laneReadFault s vs1 3,
     laneReadFault s vs2 0, laneReadFault s vs2 1, laneReadFault s vs2 2, laneReadFault s vs2 3]
  | .andD _ s1 s2 => [scalarReadFault s s1, scalarReadFault s s2]
  | .andiD _ s1 _ => [scalarReadFault s s1]
  | .mov _ ms => [scalarReadFault s ms]
  | .moviD _ _ => []
  | .moviF _ _ => []
  | .vmov _ vs1 => [laneReadFault s vs1 0, laneReadFault s vs1 1, laneReadFault s vs1 2, laneReadFault s vs1 3]
  | .vmovi _ _ => []
  | .cmp s1 s2 => [scalarReadFault s s1, scalarReadFault s s2]
  | .cmpi s1 _ => [scalarReadFault s s1]
  | .vcompmov _ _ s2 => [scalarReadFault s s2]
  | .vcompmovi _ _ _ => []
  | .ldb _ s1 _ => [scalarReadFault s s1]
  | .ldw _ s1 _ => [scalarReadFault s s1]
  | .stb d s1 _ => [scalarReadFault s d, scalarReadFault s s1]
  | .stw d s1 _ => [scalarReadFault s d, scalarReadFault s s1]
  | .setvertex vd => [laneReadFault s vd 1, laneReadFault s vd 2, laneReadFault s vd 3]
  | .setcolor vd => [laneReadFault s vd 0, laneReadFault s vd 1, laneReadFault s vd 2]
  | .rotate _ => []
  | .translate vd => [laneReadFault s vd 1, laneReadFault s vd 2]
  | .scale _ => []
  | .beginprimitive _ => []
  | .flush => []
  | .draw => []
  | .brn _ => [ccReadFault s]
  | .brz _ => [ccReadFault s]
  | .brp _ => [ccReadFault s]
  | .brnz _ => [ccReadFault s]
  | .brnp _ => [ccReadFault s]
  | .brzp _ => [ccReadFault s]
  | .brnzp _ => []
  | .jmp s1 => [scalarReadFault s s1]
  | .jsr _ => []
  | .jsrr s1 => [scalarReadFault s s1]
  | .halt => []

/-- An access of `n` bytes outside the data space (20_memory.md R65). -/
def accessFault (s : State) (s1 : SIdx) (imm : Raw16) (n : Int) : Option FaultRecord :=
  if accessAddress s s1 imm < 0 ∨ accessAddress s s1 imm + n > s.cfg.memsize then
    some ⟨.memOutOfRange, accessAddress s s1 imm⟩ else none

/-- The range check of an instruction (60_exceptions.md R226, 5). -/
def rangeFaults (s : State) (i : Instr) : List (Option FaultRecord) :=
  match i with
  | .ldb _ s1 imm => [accessFault s s1 imm 1]
  | .ldw _ s1 imm => [accessFault s s1 imm 2]
  | .stb _ s1 imm => [accessFault s s1 imm 1]
  | .stw _ s1 imm => [accessFault s s1 imm 2]
  | _ => []

/-- The one fault the instruction takes in `s`, the first of R226's order, if any. -/
def expectedFault (s : State) (i : Instr) : Option FaultRecord :=
  ((fieldFaults s.cfg i ++ readFaults s i ++ rangeFaults s i).filterMap id).head?

/-! ### Frames -/

/-- The parameters and the program are unchanged (10_state.md R20, 20_memory.md R62). -/
def KeepsInputs (s t : State) : Prop := t.cfg = s.cfg ∧ t.prog = s.prog

/-- The halt flag and the fault register are unchanged. -/
def KeepsControl (s t : State) : Prop := t.halted = s.halted ∧ t.fault = s.fault

/-- Every scalar register for which `P` does not hold keeps its content and its mark. -/
def KeepsScalarsBut (P : SIdx → Prop) (s t : State) : Prop :=
  ∀ i, ¬P i → t.scalar i = s.scalar i ∧ t.scalarWritten i = s.scalarWritten i

/-- Every scalar register keeps its content and its mark. -/
def KeepsScalars (s t : State) : Prop := KeepsScalarsBut (fun _ => False) s t

/-- The condition code is unchanged. -/
def KeepsFlags (s t : State) : Prop := t.cc = s.cc ∧ t.ccw = s.ccw

/-- Every vector register for which `P` does not hold keeps its content and its marks. -/
def KeepsVectorsBut (P : VIdx → Prop) (s t : State) : Prop :=
  ∀ j, ¬P j → t.vector j = s.vector j ∧ t.vectorWritten j = s.vectorWritten j

/-- Every vector register keeps its content and its marks. -/
def KeepsVectors (s t : State) : Prop := KeepsVectorsBut (fun _ => False) s t

/-- The vertex slots and the cursor are unchanged. -/
def KeepsVertices (s t : State) : Prop := (∀ n, t.vertex n = s.vertex n) ∧ t.cur = s.cur

/-- The GPU status register is unchanged. -/
def KeepsGsr (s t : State) : Prop := t.gsr = s.gsr

/-- Every byte for which `P` does not hold reads as before. -/
def KeepsBytesBut (P : Nat → Prop) (s t : State) : Prop := ∀ a, ¬P a → t.byteAt a = s.byteAt a

/-- Every byte of memory reads as before. -/
def KeepsBytes (s t : State) : Prop := KeepsBytesBut (fun _ => False) s t

/-- The frame of a scalar instruction with destination `d` that sets the flags. -/
def ScalarFrame (d : SIdx) (s t : State) : Prop :=
  KeepsInputs s t ∧ KeepsControl s t ∧ KeepsScalarsBut (· = d) s t ∧ KeepsVectors s t ∧ KeepsVertices s t ∧
    KeepsGsr s t ∧ KeepsBytes s t

/-- The frame of an instruction that writes vector register `vd`. -/
def VectorFrame (vd : VIdx) (s t : State) : Prop :=
  KeepsInputs s t ∧ KeepsControl s t ∧ KeepsScalars s t ∧ KeepsFlags s t ∧ KeepsVectorsBut (· = vd) s t ∧
    KeepsVertices s t ∧ KeepsGsr s t ∧ KeepsBytes s t

/-- Everything but `pc` is unchanged. -/
def OnlyPcFrame (s t : State) : Prop :=
  KeepsInputs s t ∧ KeepsControl s t ∧ KeepsScalars s t ∧ KeepsFlags s t ∧ KeepsVectors s t ∧ KeepsVertices s t ∧
    KeepsGsr s t ∧ KeepsBytes s t

/-- The frame of a store: every byte for which `P` does not hold reads as before. -/
def StoreFrame (P : Nat → Prop) (s t : State) : Prop :=
  KeepsInputs s t ∧ KeepsControl s t ∧ KeepsScalars s t ∧ KeepsFlags s t ∧ KeepsVectors s t ∧ KeepsVertices s t ∧
    KeepsGsr s t ∧ KeepsBytesBut P s t

/-- The frame of a vertex instruction: everything but the vertex slots, the cursor and `pc` is unchanged. -/
def VertexFrame (s t : State) : Prop :=
  KeepsInputs s t ∧ KeepsControl s t ∧ KeepsScalars s t ∧ KeepsFlags s t ∧ KeepsVectors s t ∧ KeepsGsr s t ∧
    KeepsBytes s t

/-- The frame of a status instruction: everything but `gsr` and `pc` is unchanged. -/
def GsrFrame (s t : State) : Prop :=
  KeepsInputs s t ∧ KeepsControl s t ∧ KeepsScalars s t ∧ KeepsFlags s t ∧ KeepsVectors s t ∧ KeepsVertices s t ∧
    KeepsBytes s t

/-- The frame of a call: everything but the link register and `pc` is unchanged. -/
def CallFrame (s t : State) : Prop :=
  KeepsInputs s t ∧ KeepsControl s t ∧ KeepsScalarsBut (· = s.cfg.lrIdx) s t ∧ KeepsFlags s t ∧ KeepsVectors s t ∧
    KeepsVertices s t ∧ KeepsGsr s t ∧ KeepsBytes s t

/-- The frame of HALT: everything but the halt flag and `pc` is unchanged. -/
def HaltFrame (s t : State) : Prop :=
  KeepsInputs s t ∧ t.fault = s.fault ∧ KeepsScalars s t ∧ KeepsFlags s t ∧ KeepsVectors s t ∧ KeepsVertices s t ∧
    KeepsGsr s t ∧ KeepsBytes s t

/-- The link register holds the byte address of the word after `k`, modulo 65536 (46_control_flow.md R195). -/
def LinkHolds (k : Int) (t : State) : Prop :=
  ((t.scalar t.cfg.lrIdx).toNat : Int) = (k + 1) * 4 % 65536 ∧ t.scalarWritten t.cfg.lrIdx = true

/-! ### Who writes what (10_state.md R25, R29, R32, R35, R36, R40, R42) -/

/-- The scalar register the instruction writes, by the table of R25. -/
def scalarDestination (c : Config) (i : Instr) : Option SIdx :=
  match i with
  | .addD d _ _ => some d
  | .addF d _ _ => some d
  | .addiD d _ _ => some d
  | .addiF d _ _ => some d
  | .andD d _ _ => some d
  | .andiD d _ _ => some d
  | .mov md _ => some md
  | .moviD md _ => some md
  | .moviF md _ => some md
  | .ldb d _ _ => some d
  | .ldw d _ _ => some d
  | .jsr _ => some c.lrIdx
  | .jsrr _ => some c.lrIdx
  | _ => none

/-- The vector register the instruction writes, by the table of R32. -/
def vectorDestination (i : Instr) : Option VIdx :=
  match i with
  | .vadd vd _ _ => some vd
  | .vmov vd _ => some vd
  | .vmovi vd _ => some vd
  | .vcompmov _ vd _ => some vd
  | .vcompmovi _ vd _ => some vd
  | _ => none

/-- The writers of `cc` (R29). -/
def flagWriters : List Mnem :=
  [.addD, .addF, .addiD, .addiF, .andD, .andiD, .mov, .moviD, .moviF, .ldb, .ldw, .cmp, .cmpi]

/-- The writers of the vertex slots (R35). -/
def vertexWriters : List Mnem := [.setvertex, .setcolor, .translate]

/-- The writers of `gsr` (R40). -/
def gsrWriters : List Mnem := [.beginprimitive, .flush, .draw]

/-- The writers of memory (20_memory.md R61, R70). -/
def memoryWriters : List Mnem := [.stb, .stw]

/-- Under `RESET_REGS = zero`, what has not been written since reset holds its reset value (10_state.md R52). -/
def UnwrittenHoldsZero (s : State) : Prop :=
  s.cfg.resetRegs = .zero →
    (∀ i, s.scalarWritten i = false → s.scalar i = 0) ∧
    (∀ j k, (s.vectorWritten j).get k = false → (s.vector j).get k = 0) ∧ (s.ccw = false → s.cc = .none)

/-! ### Another opcode map (92_eei_decisions.md D1) -/

/-- The same instruction's word under another opcode map; a word of no instruction as it is. -/
def recodeWord (o o' : Opc) (iw : IWord) : IWord :=
  match decode o iw with
  | .instr i => encode o' i
  | .nop _ => iw

/-- The same state with its program written for another opcode map. -/
def recode (o' : Opc) (s : State) : State :=
  { s with cfg := { s.cfg with opc := o' }, prog := s.prog.map (recodeWord s.cfg.opc o') }

/-- The flags a result leaves: read as a signed number and compared with 0 (40_numeric.md R124). -/
def FlagsOf (r : Raw16) (t : State) : Prop :=
  t.ccw = true ∧ t.cc = if r.getLsbD 15 then .N else if r = 0 then .Z else .P

/-- The flags a comparison of two signed numbers leaves (40_numeric.md R124, R128). -/
def FlagsOfComparison (a b : Int) (t : State) : Prop :=
  t.ccw = true ∧ (t.cc = .N ↔ a < b) ∧ (t.cc = .Z ↔ a = b) ∧ (t.cc = .P ↔ a > b)

end Sys2Proof.Machine
end

