-- ==== Sys2Proof/Certificates/Slice0/Obligations.lean ====
section
/-! DEFINITION. The statements about the model, in the order of OBLIGATIONS.json. The docstring of each names
the rules it rests on; "decision D<n>" is a choice that the spec itself made (92_eei_decisions.md), "log <n>" one
of the model. -/

open Sys2Proof Sys2Proof.Machine

/-! ### Encoding -/

/-- Decoding the encoded word gives the instruction back, for every injective `OPC` and every operand
(30_encoding.md R82, R83, R85). -/
def Obligations.DecodeOfEncode : Prop :=
  ∀ (o : Opc) (i : Instr), o.Injective → decode o (encode o i) = .instr i

/-- Encoding the decoded instruction gives the word back on every bit its format uses, and 0 on every ignored
bit: no bit of a field is dropped or moved (30_encoding.md R84, R85). -/
def Obligations.EncodeOfDecode : Prop :=
  ∀ (o : Opc) (iw : IWord) (i : Instr), decode o iw = .instr i → encode o i = iw &&& i.mnem.usedBits

/-- Changing the bits a format ignores changes neither which instruction is decoded nor its operands
(30_encoding.md R84, decision D30). -/
def Obligations.IgnoredBitsChangeNothing : Prop :=
  ∀ (o : Opc) (iw iw' : IWord) (i : Instr), decode o iw = .instr i →
    iw' &&& i.mnem.usedBits = iw &&& i.mnem.usedBits → decode o iw' = .instr i

/-- Under the default `OPC` (decision D1) the unrecognized opcodes are exactly R100's four ranges, and such a
word decodes to `NOP(op)` with its own opcode (30_encoding.md R100). -/
def Obligations.UnrecognizedOpcodes : Prop :=
  ∀ (iw : IWord) (op : OpByte), decode {} iw = .nop op ↔
    op = fieldOp iw ∧ ((0x14 ≤ op.toNat ∧ op.toNat ≤ 0x1F) ∨ (0x28 ≤ op.toNat ∧ op.toNat ≤ 0x2F) ∨
      (0x3A ≤ op.toNat ∧ op.toNat ≤ 0x3F) ∨ (0x41 ≤ op.toNat ∧ op.toNat ≤ 0xFF))

/-- Words written out from the spec's encodings decode to the instructions they stand for (95_test_vectors.md
T8 and P2; default `OPC`, decision D1). -/
def Obligations.SampleWordsDecode : Prop :=
  decode {} 0x00ABCDEF = .instr (.addD 0xA 0xB 0xD) ∧
  decode {} 0x04D5E6E7 = .instr (.vadd 21 38 39) ∧
  decode {} 0x0EC10200 = .instr (.vcompmov 3 1 2) ∧
  decode {} 0x0F8A1234 = .instr (.vcompmovi 2 10 0x1234) ∧
  decode {} 0x1012FFFF = .instr (.ldb 1 2 0xFFFF) ∧
  decode {} 0x25F30000 = .instr (.beginprimitive 3) ∧
  decode {} 0x38FF000A = .instr (.jsr 0x000A) ∧
  decode {} 0x370E0000 = .instr (.jmp 14) ∧
  decode {} 0x41000000 = .nop 0x41

/-! ### The step -/

/-- When the word at `pc` decodes to an instruction `i`, the step is `exec i` (46_control_flow.md R191), and no
unknown opcode is reported (30_encoding.md R100, R101; 46_control_flow.md R215; that the report is a function of
the state is the model's choice, log 6). -/
def Obligations.StepRunsDecoded : Prop :=
  ∀ (s : State) (iw : IWord) (i : Instr), Running s → 0 ≤ s.pc → s.prog[s.pc.toNat]? = some iw →
    decode s.cfg.opc iw = .instr i → step s = exec i s ∧ unknownOpcode s = none

/-- When the word at `pc` has an unrecognized opcode, the step changes only `pc` and reports the opcode
(46_control_flow.md R215, decision D28; the report is a function of the state, log 6). -/
def Obligations.StepUnknownOpcode : Prop :=
  ∀ (s : State) (iw : IWord) (op : OpByte), Running s → 0 ≤ s.pc → s.prog[s.pc.toNat]? = some iw →
    decode s.cfg.opc iw = .nop op →
    ∃ t, step s = .next t ∧ t.pc = s.pc + 1 ∧ OnlyPcFrame s t ∧ unknownOpcode s = some op

/-- The core has a next state exactly while `halted = 0` and `fault = none`: when either does not hold there is no
step (46_control_flow.md R190), and when both hold the step of R191 gives a next state, also where the fetch or the
instruction faults (60_exceptions.md R222; that a fault is taken as a next state, where 00_scope.md R18 names it an
outcome of its own, is the model's reading, log 4). -/
def Obligations.StepsExactlyWhileRunning : Prop :=
  ∀ s : State, (∃ t, step s = .next t) ↔ (s.halted = false ∧ s.fault = none)

/-- A step that begins with `pc` outside `[0, L)` records `PcOutOfRange(pc)` and changes nothing else
(46_control_flow.md R191; 60_exceptions.md R222, decisions D26, D29; the fault taken as a next state, log 4). -/
def Obligations.FetchOutsideProgramFaults : Prop :=
  ∀ s : State, Running s → (s.pc < 0 ∨ (s.prog.length : Int) ≤ s.pc) →
    step s = .next { s with fault := some ⟨.pcOutOfRange, s.pc⟩ }

/-- The start of a run: the reset state for admitted parameters and a program of at most 16383 words, a refusal
otherwise (70_reset_and_hazards.md R255, decision D10; the loader's admission is `State.boot`, log 11). -/
def Obligations.BootAdmitsOrRefuses : Prop :=
  ∀ (c : Config) (prog : List IWord) (p : PowerOn),
    (c.Valid → prog.length ≤ 16383 → State.boot c prog p = .next (State.resetWith c prog p)) ∧
    (c.Valid → 16383 < prog.length → State.boot c prog p = .refused .programTooLong) ∧
    (¬c.Valid → State.boot c prog p = .refused .parametersNotAdmitted)

/-- What reset leaves, for every choice of parameters, program and undefined contents: the parameters and the
program as given, the values of R52's table, and for what R52 calls undefined or "any value" the given contents
under `RESET_REGS = undefined`, zeros and no flag under `RESET_REGS = zero` (10_state.md R52; 70_reset_and_hazards.md
R250, R255; decisions D11, D12, D13; that State holds the parameters and the program is the model's choice, log 2). -/
def Obligations.ResetValues : Prop :=
  ∀ (c : Config) (prog : List IWord) (p : PowerOn) (s : State), s = State.resetWith c prog p →
    s.cfg = c ∧ s.prog = prog ∧
    s.pc = 0 ∧ s.cur = 0 ∧ s.halted = false ∧ s.fault = none ∧ s.gsr = ⟨false, false, false, false⟩ ∧
    (∀ a, s.byteAt a = 0) ∧ (∀ i, s.scalarWritten i = false) ∧ (∀ j k, (s.vectorWritten j).get k = false) ∧
    s.ccw = false ∧
    (c.resetRegs = .undefined → s.x = p.x ∧ s.v = p.v ∧ s.cc = p.cc ∧ s.vtx = p.vtx) ∧
    (c.resetRegs = .zero → (∀ i, s.scalar i = 0) ∧ (∀ j k, (s.vector j).get k = 0) ∧ s.cc = .none ∧
      ∀ n, s.vertex n = ⟨0, 0, 0, 0, 0, 0⟩)

/-- HALT ends the run: the state after it is `EndedNormally`, with `pc` one past the HALT, and there is no step
from it (00_scope.md R19, decision D35; 46_control_flow.md R190, R214; that such a state answers `.fault` is the
model's choice, log 5). -/
def Obligations.HaltEndsTheRun : Prop :=
  ∀ s t : State, Running s → exec .halt s = .next t →
    EndedNormally t ∧ t.pc = s.pc + 1 ∧ step t = .fault .halted

/-! ### Faults -/

/-- Every instruction, in every state: if a check of its rule fails, the FIRST failing check in R226's order is
recorded and nothing else changes; if none fails, the instruction completes with the fault register as it was
(60_exceptions.md R221, R222, R226; decisions D6, D12, D25, D26, D27; the fault taken as a next state, log 4). -/
def Obligations.ExecTakesFirstFault : Prop :=
  ∀ (s : State) (i : Instr),
    (∀ f, expectedFault s i = some f → exec i s = .next { s with fault := some f }) ∧
    (expectedFault s i = none → ∃ t, exec i s = .next t ∧ t.fault = s.fault)

/-- Faults are precise: a step that records a fault changes nothing but the fault register, `pc` included, and
there is no step from the state it leaves (60_exceptions.md R222, decision D26; that a state with no step answers
`.fault` is the model's choice, log 5). -/
def Obligations.FaultsArePrecise : Prop :=
  ∀ (s t : State) (f : FaultRecord), Running s → step s = .next t → t.fault = some f →
    t = { s with fault := some f } ∧ step t = .fault (.faulted f)

/-- Under `RESET_REGS = zero` no step records `UndefinedRead` (70_reset_and_hazards.md R252, decision D12). -/
def Obligations.ZeroResetNeverUndefinedRead : Prop :=
  ∀ (s t : State) (f : FaultRecord), Running s → s.cfg.resetRegs = .zero → step s = .next t →
    t.fault = some f → f.cause ≠ .undefinedRead

/-- A well-formed instruction can only take `UndefinedRead` or `MemOutOfRange` (10_state.md R24, R31;
46_control_flow.md R212; decisions D6, D25). -/
def Obligations.WellFormedFaultCauses : Prop :=
  ∀ (s t : State) (i : Instr) (f : FaultRecord), s.fault = none → i.WellFormed s.cfg → exec i s = .next t →
    t.fault = some f → f.cause = .undefinedRead ∨ f.cause = .memOutOfRange

/-! ### Scalar instructions -/

/-- ADD_D and ADD_F write the sum modulo 65536, whichever way the operands are read, and its flags, and nothing
else but `pc` (40_numeric.md R127; 41_scalar_alu.md R130, R131). -/
def Obligations.AddRegistersSum : Prop :=
  ∀ (s : State) (d s1 s2 : SIdx), s.cfg.NamesScalar d → ScalarReadable s s1 → ScalarReadable s s2 →
    ∀ i ∈ [Instr.addD d s1 s2, Instr.addF d s1 s2], ∃ t, exec i s = .next t ∧
      (t.scalar d).toNat = ((s.scalar s1).toNat + (s.scalar s2).toNat) % 65536 ∧
      t.scalar d = u16 (s16 (s.scalar s1) + s16 (s.scalar s2)) ∧ t.scalarWritten d = true ∧
      FlagsOf (t.scalar d) t ∧ t.pc = s.pc + 1 ∧ ScalarFrame d s t

/-- ADDI_D and ADDI_F write the sum with the sign-extended immediate modulo 65536, and its flags, and nothing
else but `pc` (41_scalar_alu.md R132, R133). -/
def Obligations.AddImmediateSum : Prop :=
  ∀ (s : State) (d s1 : SIdx) (imm : Raw16), s.cfg.NamesScalar d → ScalarReadable s s1 →
    ∀ i ∈ [Instr.addiD d s1 imm, Instr.addiF d s1 imm], ∃ t, exec i s = .next t ∧
      ((t.scalar d).toNat : Int) = ((s.scalar s1).toNat + imm.toInt) % 65536 ∧
      (t.scalar d).toNat = ((s.scalar s1).toNat + imm.toNat) % 65536 ∧ t.scalarWritten d = true ∧
      FlagsOf (t.scalar d) t ∧ t.pc = s.pc + 1 ∧ ScalarFrame d s t

/-- AND_D and ANDI_D write the bitwise and, and its flags, and nothing else but `pc` (41_scalar_alu.md R134,
R135). -/
def Obligations.AndResult : Prop :=
  ∀ (s : State) (d s1 s2 : SIdx) (imm : Raw16), s.cfg.NamesScalar d → ScalarReadable s s1 →
    (ScalarReadable s s2 → ∃ t, exec (.andD d s1 s2) s = .next t ∧
      t.scalar d = s.scalar s1 &&& s.scalar s2 ∧ t.scalarWritten d = true ∧
      FlagsOf (t.scalar d) t ∧ t.pc = s.pc + 1 ∧ ScalarFrame d s t) ∧
    (∃ t, exec (.andiD d s1 imm) s = .next t ∧
      t.scalar d = s.scalar s1 &&& imm ∧ t.scalarWritten d = true ∧
      FlagsOf (t.scalar d) t ∧ t.pc = s.pc + 1 ∧ ScalarFrame d s t)

/-- MOV copies the source unmodified and sets the flags of the value, and nothing else but `pc`
(42_move_compare.md R140). -/
def Obligations.MoveRegisterResult : Prop :=
  ∀ (s : State) (md ms : SIdx), s.cfg.NamesScalar md → ScalarReadable s ms →
    ∃ t, exec (.mov md ms) s = .next t ∧ t.scalar md = s.scalar ms ∧ t.scalarWritten md = true ∧
      FlagsOf (s.scalar ms) t ∧ t.pc = s.pc + 1 ∧ ScalarFrame md s t

/-- MOVI_D and MOVI_F copy the raw immediate and set its flags, and nothing else but `pc` (42_move_compare.md
R141, R142). -/
def Obligations.MoveImmediateResult : Prop :=
  ∀ (s : State) (md : SIdx) (imm : Raw16), s.cfg.NamesScalar md →
    ∀ i ∈ [Instr.moviD md imm, Instr.moviF md imm], ∃ t, exec i s = .next t ∧
      t.scalar md = imm ∧ t.scalarWritten md = true ∧ FlagsOf imm t ∧ t.pc = s.pc + 1 ∧ ScalarFrame md s t

/-- CMP and CMPI compare the signed readings as mathematical integers, which cannot overflow, and change only
`cc` and `pc` (40_numeric.md R128; 42_move_compare.md R143, R144). -/
def Obligations.CompareResult : Prop :=
  ∀ (s : State) (s1 s2 : SIdx) (imm : Raw16), ScalarReadable s s1 →
    (ScalarReadable s s2 → ∃ t, exec (.cmp s1 s2) s = .next t ∧
      FlagsOfComparison (s.scalar s1).toInt (s.scalar s2).toInt t ∧ t.pc = s.pc + 1 ∧
      KeepsScalars s t ∧ KeepsInputs s t ∧ KeepsControl s t ∧ KeepsVectors s t ∧ KeepsVertices s t ∧ KeepsGsr s t ∧
      KeepsBytes s t) ∧
    (∃ t, exec (.cmpi s1 imm) s = .next t ∧
      FlagsOfComparison (s.scalar s1).toInt imm.toInt t ∧ t.pc = s.pc + 1 ∧
      KeepsScalars s t ∧ KeepsInputs s t ∧ KeepsControl s t ∧ KeepsVectors s t ∧ KeepsVertices s t ∧ KeepsGsr s t ∧
      KeepsBytes s t)

/-! ### Vector instructions -/

/-- VADD writes each lane's sum modulo 65536, no lane touching another, and changes nothing else but `pc`; `cc`
is kept (43_vector.md R150, R151, decision D19). -/
def Obligations.VectorAddResult : Prop :=
  ∀ (s : State) (vd vs1 vs2 : VIdx), s.cfg.NamesVector vd → VectorReadable s vs1 → VectorReadable s vs2 →
    ∃ t, exec (.vadd vd vs1 vs2) s = .next t ∧
      (∀ k, ((t.vector vd).get k).toNat =
        (((s.vector vs1).get k).toNat + ((s.vector vs2).get k).toNat) % 65536) ∧
      (∀ k, (t.vectorWritten vd).get k = true) ∧ t.pc = s.pc + 1 ∧ VectorFrame vd s t

/-- VMOV copies the four lanes and changes nothing else but `pc` (43_vector.md R152, decisions D19, D20). -/
def Obligations.VectorMoveResult : Prop :=
  ∀ (s : State) (vd vs1 : VIdx), s.cfg.NamesVector vd → VectorReadable s vs1 →
    ∃ t, exec (.vmov vd vs1) s = .next t ∧ t.vector vd = s.vector vs1 ∧
      (∀ k, (t.vectorWritten vd).get k = true) ∧ t.pc = s.pc + 1 ∧ VectorFrame vd s t

/-- VMOVI puts the raw immediate in all four lanes and changes nothing else but `pc` (43_vector.md R153,
decisions D19, D20). -/
def Obligations.VectorBroadcastResult : Prop :=
  ∀ (s : State) (vd : VIdx) (imm : Raw16), s.cfg.NamesVector vd →
    ∃ t, exec (.vmovi vd imm) s = .next t ∧ (∀ k, (t.vector vd).get k = imm) ∧
      (∀ k, (t.vectorWritten vd).get k = true) ∧ t.pc = s.pc + 1 ∧ VectorFrame vd s t

/-- VCOMPMOV and VCOMPMOVI write one lane; the other lanes keep content and mark, and nothing else but `pc`
changes (43_vector.md R154, R155; 10_state.md R31, decision D20). -/
def Obligations.LaneWriteResult : Prop :=
  ∀ (s : State) (lane : LaneIdx) (vd : VIdx) (s2 : SIdx) (imm : Raw16), s.cfg.NamesVector vd →
    (ScalarReadable s s2 → ∃ t, exec (.vcompmov lane vd s2) s = .next t ∧
      (t.vector vd).get lane = s.scalar s2 ∧ (t.vectorWritten vd).get lane = true ∧
      (∀ k, k ≠ lane → (t.vector vd).get k = (s.vector vd).get k ∧
        (t.vectorWritten vd).get k = (s.vectorWritten vd).get k) ∧
      t.pc = s.pc + 1 ∧ VectorFrame vd s t) ∧
    (∃ t, exec (.vcompmovi lane vd imm) s = .next t ∧
      (t.vector vd).get lane = imm ∧ (t.vectorWritten vd).get lane = true ∧
      (∀ k, k ≠ lane → (t.vector vd).get k = (s.vector vd).get k ∧
        (t.vectorWritten vd).get k = (s.vectorWritten vd).get k) ∧
      t.pc = s.pc + 1 ∧ VectorFrame vd s t)

/-! ### Loads and stores -/

/-- LDB reads the byte at its effective address, zero-extended, and sets the flags, never N; nothing else but
`pc` changes (44_load_store.md R160; 20_memory.md R64, decisions D17, D18). -/
def Obligations.LoadByteResult : Prop :=
  ∀ (s : State) (d s1 : SIdx) (imm : Raw16), s.cfg.NamesScalar d → ScalarReadable s s1 →
    s.InMemory (accessAddress s s1 imm) 1 →
    ∃ t, exec (.ldb d s1 imm) s = .next t ∧
      (t.scalar d).toNat = (s.byteAt (accessAddress s s1 imm).toNat).toNat ∧ t.scalarWritten d = true ∧
      FlagsOf (t.scalar d) t ∧ t.cc ≠ .N ∧ t.pc = s.pc + 1 ∧ ScalarFrame d s t

/-- LDW reads the low byte at its effective address and the high byte after it, at any alignment, and sets the
flags; nothing else but `pc` changes (44_load_store.md R161; 20_memory.md R64, R66, R68, decision D18). -/
def Obligations.LoadWordResult : Prop :=
  ∀ (s : State) (d s1 : SIdx) (imm : Raw16), s.cfg.NamesScalar d → ScalarReadable s s1 →
    s.InMemory (accessAddress s s1 imm) 2 →
    ∃ t, exec (.ldw d s1 imm) s = .next t ∧
      (t.scalar d).toNat = 256 * (s.byteAt ((accessAddress s s1 imm).toNat + 1)).toNat +
        (s.byteAt (accessAddress s s1 imm).toNat).toNat ∧ t.scalarWritten d = true ∧
      FlagsOf (t.scalar d) t ∧ t.pc = s.pc + 1 ∧ ScalarFrame d s t

/-- STB stores the low 8 bits of its data register at its effective address and changes no other byte, no flag
and no register but `pc` (44_load_store.md R162; 20_memory.md R64, decision D18). -/
def Obligations.StoreByteResult : Prop :=
  ∀ (s : State) (d s1 : SIdx) (imm : Raw16), s.mem.WF → ScalarReadable s d → ScalarReadable s s1 →
    s.InMemory (accessAddress s s1 imm) 1 →
    ∃ t, exec (.stb d s1 imm) s = .next t ∧
      (t.byteAt (accessAddress s s1 imm).toNat).toNat = (s.scalar d).toNat % 256 ∧ t.pc = s.pc + 1 ∧
      StoreFrame (· = (accessAddress s s1 imm).toNat) s t

/-- STW stores the low byte at its effective address and the high byte after it, at any alignment, and changes
no other byte, no flag and no register but `pc` (44_load_store.md R163; 20_memory.md R64, R66, R68, decision
D18). -/
def Obligations.StoreWordResult : Prop :=
  ∀ (s : State) (d s1 : SIdx) (imm : Raw16), s.mem.WF → ScalarReadable s d → ScalarReadable s s1 →
    s.InMemory (accessAddress s s1 imm) 2 →
    ∃ t, exec (.stw d s1 imm) s = .next t ∧
      (t.byteAt (accessAddress s s1 imm).toNat).toNat = (s.scalar d).toNat % 256 ∧
      (t.byteAt ((accessAddress s s1 imm).toNat + 1)).toNat = (s.scalar d).toNat / 256 ∧ t.pc = s.pc + 1 ∧
      StoreFrame (fun a => a = (accessAddress s s1 imm).toNat ∨ a = (accessAddress s s1 imm).toNat + 1) s t

/-- An access of `n` bytes is admitted exactly when it lies in the data space; otherwise the instruction records
`MemOutOfRange(EA)` and writes nothing, not even the byte that is inside (20_memory.md R65). -/
def Obligations.AccessRangeCheck : Prop :=
  ∀ (s : State) (d s1 : SIdx) (imm : Raw16) (i : Instr) (n : Int), ScalarReadable s s1 →
    ((i = .ldb d s1 imm ∧ n = 1 ∧ s.cfg.NamesScalar d) ∨ (i = .ldw d s1 imm ∧ n = 2 ∧ s.cfg.NamesScalar d) ∨
      (i = .stb d s1 imm ∧ n = 1 ∧ ScalarReadable s d) ∨ (i = .stw d s1 imm ∧ n = 2 ∧ ScalarReadable s d)) →
    if 0 ≤ accessAddress s s1 imm ∧ accessAddress s s1 imm + n ≤ s.cfg.memsize then
      ∃ t, exec i s = .next t ∧ t.fault = s.fault ∧ t.pc = s.pc + 1
    else exec i s = .next { s with fault := some ⟨.memOutOfRange, accessAddress s s1 imm⟩ }

/-- Data is little-endian: after STW the two bytes are the low and the high byte of the register, LDW at the
address gives the register back, and LDB at the address and at the next one give the two bytes
(20_memory.md R66). -/
def Obligations.StoreThenLoadLittleEndian : Prop :=
  ∀ (s : State) (d s1 : SIdx) (imm : Raw16), s.mem.WF → ScalarReadable s d → ScalarReadable s s1 →
    s.InMemory (accessAddress s s1 imm) 2 →
    ∃ t, exec (.stw d s1 imm) s = .next t ∧
      t.byteAt (accessAddress s s1 imm).toNat = (s.scalar d).extractLsb' 0 8 ∧
      t.byteAt ((accessAddress s s1 imm).toNat + 1) = (s.scalar d).extractLsb' 8 8 ∧
      ∀ (d' b : SIdx) (off : Raw16), t.cfg.NamesScalar d' → ScalarReadable t b →
        (accessAddress t b off = accessAddress s s1 imm →
          (∃ u, exec (.ldw d' b off) t = .next u ∧ u.scalar d' = s.scalar d) ∧
          (∃ u, exec (.ldb d' b off) t = .next u ∧ (u.scalar d').toNat = (s.scalar d).toNat % 256)) ∧
        (accessAddress t b off = accessAddress s s1 imm + 1 →
          ∃ u, exec (.ldb d' b off) t = .next u ∧ (u.scalar d').toNat = (s.scalar d).toNat / 256)

/-! ### GPU instructions -/

/-- SETVERTEX puts lanes 1, 2, 3 divided by 16 (a logical shift) into the position of slot `cur`, keeps the
slot's color and the other slots, and advances `cur` modulo 3; nothing else but `pc` changes (45_gpu.md R170,
decision D21). -/
def Obligations.SetVertexResult : Prop :=
  ∀ (s : State) (vd : VIdx), s.cfg.NamesVector vd → s.LaneDefined vd 1 → s.LaneDefined vd 2 →
    s.LaneDefined vd 3 →
    ∃ t, exec (.setvertex vd) s = .next t ∧
      (t.vertex s.cur).x.toNat = ((s.vector vd).get 1).toNat / 16 ∧
      (t.vertex s.cur).y.toNat = ((s.vector vd).get 2).toNat / 16 ∧
      (t.vertex s.cur).z.toNat = ((s.vector vd).get 3).toNat / 16 ∧
      (t.vertex s.cur).r = (s.vertex s.cur).r ∧ (t.vertex s.cur).g = (s.vertex s.cur).g ∧
      (t.vertex s.cur).b = (s.vertex s.cur).b ∧ (∀ n, n ≠ s.cur → t.vertex n = s.vertex n) ∧
      t.cur.val = (s.cur.val + 1) % 3 ∧ t.pc = s.pc + 1 ∧ VertexFrame s t

/-- SETCOLOR puts lanes 0, 1, 2 divided by 16 (a logical shift) into the color of slot 0 whatever `cur`, keeps
the slot's position, the other slots and `cur`; nothing else but `pc` changes (45_gpu.md R171, decision D21). -/
def Obligations.SetColorResult : Prop :=
  ∀ (s : State) (vd : VIdx), s.cfg.NamesVector vd → s.LaneDefined vd 0 → s.LaneDefined vd 1 →
    s.LaneDefined vd 2 →
    ∃ t, exec (.setcolor vd) s = .next t ∧
      (t.vertex 0).r.toNat = ((s.vector vd).get 0).toNat / 16 ∧
      (t.vertex 0).g.toNat = ((s.vector vd).get 1).toNat / 16 ∧
      (t.vertex 0).b.toNat = ((s.vector vd).get 2).toNat / 16 ∧
      (t.vertex 0).x = (s.vertex 0).x ∧ (t.vertex 0).y = (s.vertex 0).y ∧ (t.vertex 0).z = (s.vertex 0).z ∧
      (∀ n, n ≠ 0 → t.vertex n = s.vertex n) ∧ t.cur = s.cur ∧ t.pc = s.pc + 1 ∧ VertexFrame s t

/-- TRANSLATE adds lane 1 and lane 2, each divided by 16 toward minus infinity, to x and y of all three slots
modulo 65536, and keeps z, the colors and `cur`; nothing else but `pc` changes (45_gpu.md R173; 40_numeric.md
R125, decision D21). -/
def Obligations.TranslateResult : Prop :=
  ∀ (s : State) (vd : VIdx), s.cfg.NamesVector vd → s.LaneDefined vd 1 → s.LaneDefined vd 2 →
    ∃ t, exec (.translate vd) s = .next t ∧
      (∀ n, ((t.vertex n).x.toNat : Int) = ((s.vertex n).x.toNat + ((s.vector vd).get 1).toInt / 16) % 65536 ∧
        ((t.vertex n).y.toNat : Int) = ((s.vertex n).y.toNat + ((s.vector vd).get 2).toInt / 16) % 65536 ∧
        (t.vertex n).z = (s.vertex n).z ∧ (t.vertex n).r = (s.vertex n).r ∧ (t.vertex n).g = (s.vertex n).g ∧
        (t.vertex n).b = (s.vertex n).b) ∧
      t.cur = s.cur ∧ t.pc = s.pc + 1 ∧ VertexFrame s t

/-- ROTATE and SCALE have no effect but the advance of `pc`, in every state and for every operand field
(45_gpu.md R172, R174, decision D33). -/
def Obligations.RotateScaleOnlyAdvance : Prop :=
  ∀ (s : State) (vd : VIdx), ∀ i ∈ [Instr.rotate vd, Instr.scale vd],
    ∃ t, exec i s = .next t ∧ t.pc = s.pc + 1 ∧ OnlyPcFrame s t

/-- BEGINPRIMITIVE sets exactly one of `TRIANGLE` and `LINE`, the triangle for every nonzero selector, and
changes nothing else but `pc` (45_gpu.md R180; 10_state.md R41, decision D22). -/
def Obligations.BeginPrimitiveResult : Prop :=
  ∀ (s : State) (prim : PrimSel), ∃ t, exec (.beginprimitive prim) s = .next t ∧
    (t.gsr.TRIANGLE = true ↔ prim.toNat ≠ 0) ∧ (t.gsr.LINE = true ↔ prim.toNat = 0) ∧
    t.gsr.DRAW = s.gsr.DRAW ∧ t.gsr.FLUSH = s.gsr.FLUSH ∧ t.pc = s.pc + 1 ∧ GsrFrame s t

/-- FLUSH sets `FLUSH` and clears `DRAW`, DRAW sets `DRAW` and clears `FLUSH`; each changes nothing else but
`pc` (45_gpu.md R181, R182). -/
def Obligations.FlushDrawResult : Prop :=
  ∀ s : State,
    (∃ t, exec .flush s = .next t ∧ t.gsr.FLUSH = true ∧ t.gsr.DRAW = false ∧ t.gsr.LINE = s.gsr.LINE ∧
      t.gsr.TRIANGLE = s.gsr.TRIANGLE ∧ t.pc = s.pc + 1 ∧ GsrFrame s t) ∧
    (∃ t, exec .draw s = .next t ∧ t.gsr.DRAW = true ∧ t.gsr.FLUSH = false ∧ t.gsr.LINE = s.gsr.LINE ∧
      t.gsr.TRIANGLE = s.gsr.TRIANGLE ∧ t.pc = s.pc + 1 ∧ GsrFrame s t)

/-! ### Control flow -/

/-- Each tested branch is taken exactly when `cc` is in its set, to the next word plus the signed offset, and
changes nothing but `pc` (46_control_flow.md R200 to R206, decision D29). -/
def Obligations.ConditionalBranchResult : Prop :=
  ∀ (s : State) (imm : Raw16), s.CCDefined →
    ∀ p ∈ [(Instr.brn imm, [CC.N]), (Instr.brz imm, [CC.Z]), (Instr.brp imm, [CC.P]),
      (Instr.brnz imm, [CC.N, CC.Z]), (Instr.brnp imm, [CC.N, CC.P]), (Instr.brzp imm, [CC.Z, CC.P])],
    ∃ t, exec p.1 s = .next t ∧ (s.cc ∈ p.2 → t.pc = s.pc + 1 + imm.toInt) ∧ (s.cc ∉ p.2 → t.pc = s.pc + 1) ∧
      OnlyPcFrame s t

/-- BRNZP is taken in every state, whether or not `cc` has been written, and changes nothing but `pc`; with
offset -1 it is a branch to itself (46_control_flow.md R193, R207). -/
def Obligations.BranchAlwaysResult : Prop :=
  ∀ (s : State) (imm : Raw16), ∃ t, exec (.brnzp imm) s = .next t ∧ t.pc = s.pc + 1 + imm.toInt ∧
    (imm = 0xFFFF → t.pc = s.pc) ∧ OnlyPcFrame s t

/-- JMP goes to the word index of the byte address in its register, the low two bits dropped, and changes nothing
but `pc` (46_control_flow.md R210, decision D24). -/
def Obligations.JumpResult : Prop :=
  ∀ (s : State) (s1 : SIdx), ScalarReadable s s1 →
    ∃ t, exec (.jmp s1) s = .next t ∧ t.pc = ((s.scalar s1).toNat / 4 : Nat) ∧ OnlyPcFrame s t

/-- JSR puts the byte address of the next word in the link register, goes to the next word plus the signed
offset, and changes nothing else (46_control_flow.md R195, R211). -/
def Obligations.CallRelativeResult : Prop :=
  ∀ (s : State) (imm : Raw16), ∃ t, exec (.jsr imm) s = .next t ∧ LinkHolds s.pc t ∧
    t.pc = s.pc + 1 + imm.toInt ∧ CallFrame s t

/-- JSRR goes to the word index of the byte address its register held before the link was written, and changes
nothing but the link register and `pc`; naming the link register is the fault `UnpredictableOperand`
(46_control_flow.md R195, R212, decisions D24, D25). -/
def Obligations.CallRegisterResult : Prop :=
  ∀ (s : State) (s1 : SIdx),
    (ScalarReadable s s1 → s1 ≠ s.cfg.lrIdx → ∃ t, exec (.jsrr s1) s = .next t ∧ LinkHolds s.pc t ∧
      t.pc = ((s.scalar s1).toNat / 4 : Nat) ∧ CallFrame s t) ∧
    (s.cfg.NamesScalar s1 → s1 = s.cfg.lrIdx →
      exec (.jsrr s1) s = .next { s with fault := some ⟨.unpredictableOperand, s1.toNat⟩ })

/-- HALT sets `halted` and advances `pc`, and changes nothing else (46_control_flow.md R214). -/
def Obligations.HaltResult : Prop :=
  ∀ s : State, ∃ t, exec .halt s = .next t ∧ t.halted = true ∧ t.pc = s.pc + 1 ∧ HaltFrame s t

/-- A call returns: JMP through the link register after JSR or JSRR at word index `k` goes to `k + 1`, for every
index the program can have (46_control_flow.md R195, R210 to R212; decisions D10, D24). -/
def Obligations.CallThenReturn : Prop :=
  ∀ (s t : State) (imm : Raw16) (s1 : SIdx), 0 ≤ s.pc → s.pc < 16383 → s.cfg.NamesScalar s.cfg.lrIdx →
    (exec (.jsr imm) s = .next t ∨
      (ScalarReadable s s1 ∧ s1 ≠ s.cfg.lrIdx ∧ exec (.jsrr s1) s = .next t)) →
    ∃ u, exec (.jmp s.cfg.lrIdx) t = .next u ∧ u.pc = s.pc + 1

/-! ### Invariants and whole-machine rules -/

/-- The invariant holds after reset, for all admitted parameters and programs and all undefined contents
(10_state.md R52; `State.reset` itself is the model's choice among them, log 1 and log 3). -/
def Obligations.ResetMeetsInvariant : Prop :=
  StateInv State.reset ∧
    ∀ (c : Config) (prog : List IWord) (p : PowerOn), c.Valid → prog.length ≤ 16383 →
      StateInv (State.resetWith c prog p)

/-- Every step keeps the invariant: the admitted inputs, the memory's canonical form and range, `DRAW` and
`FLUSH` never both set, `LINE` and `TRIANGLE` never both set, one flag in a written `cc`, the bounds of `pc`
(10_state.md R28, R41; 20_memory.md R61; 46_control_flow.md R191). -/
def Obligations.StepKeepsInvariant : Prop :=
  ∀ s t : State, StateInv s → step s = .next t → StateInv t

/-- No step writes the program or the parameters: no self-modifying code (20_memory.md R62, R74; 10_state.md
R20; the two are held in State by the model's choice, log 2). -/
def Obligations.StepKeepsProgram : Prop := ∀ s t : State, step s = .next t → KeepsInputs s t

/-- Only STB and STW write data memory (20_memory.md R61, R70). -/
def Obligations.OnlyStoresWriteMemory : Prop :=
  ∀ (i : Instr) (s t : State), exec i s = .next t → i.mnem ∉ memoryWriters → KeepsBytes s t

/-- Only the writers of R29's list write `cc`, and after one of them completes exactly one flag is set
(10_state.md R28, R29, decision D19). -/
def Obligations.OnlyFlagWritersWriteCC : Prop :=
  ∀ (i : Instr) (s t : State), exec i s = .next t → s.fault = none →
    (i.mnem ∉ flagWriters → KeepsFlags s t) ∧
    (i.mnem ∈ flagWriters → t.fault = none → t.ccw = true ∧ t.cc ≠ .none)

/-- Every instruction writes only the scalar and the vector register that the tables of R25 and R32 give it, and
under admitted parameters the reserved index keeps its content (10_state.md R24, R25, R32, decision D6). -/
def Obligations.RegistersWrittenByTable : Prop :=
  ∀ (i : Instr) (s t : State), exec i s = .next t →
    KeepsScalarsBut (fun r => scalarDestination s.cfg i = some r) s t ∧
    KeepsVectorsBut (fun r => vectorDestination i = some r) s t ∧
    (s.cfg.Valid → t.scalar s.cfg.pcIdx = s.scalar s.cfg.pcIdx)

/-- Only SETVERTEX moves the cursor, only SETVERTEX, SETCOLOR and TRANSLATE write vertex slots, only
BEGINPRIMITIVE, FLUSH and DRAW write `gsr`, and only HALT sets `halted` (10_state.md R35, R36, R40, R42). -/
def Obligations.OnlyListedWritersOfGpuAndHalt : Prop :=
  ∀ (i : Instr) (s t : State), exec i s = .next t →
    (i.mnem ≠ .setvertex → t.cur = s.cur) ∧ (i.mnem ∉ vertexWriters → ∀ n, t.vertex n = s.vertex n) ∧
    (i.mnem ∉ gsrWriters → t.gsr = s.gsr) ∧ (i.mnem ≠ .halt → t.halted = s.halted)

/-- What has been written since reset stays written (10_state.md R24, R28, R31). -/
def Obligations.WrittenMarksStay : Prop :=
  ∀ s t : State, step s = .next t →
    (∀ r, s.scalarWritten r = true → t.scalarWritten r = true) ∧
    (∀ j k, (s.vectorWritten j).get k = true → (t.vectorWritten j).get k = true) ∧
    (s.ccw = true → t.ccw = true)

/-- Under `RESET_REGS = zero`, a register, lane or `cc` that nothing has written still holds its reset value: it
does after reset, and every step keeps it so (10_state.md R52, decision D12). -/
def Obligations.UnwrittenHoldsResetValue : Prop :=
  (∀ (c : Config) (prog : List IWord) (p : PowerOn), UnwrittenHoldsZero (State.resetWith c prog p)) ∧
    ∀ s t : State, UnwrittenHoldsZero s → step s = .next t → UnwrittenHoldsZero t

/-- The opcode values carry no meaning: a program of instructions written for another injective `OPC` runs step
for step alike (30_encoding.md R95; decision D1, "Nothing proved about a program's meaning may depend on the
default values; only on `OPC` being injective"). -/
def Obligations.RecodedProgramRunsAlike : Prop :=
  ∀ (s t : State) (o : Opc), o.Injective → (∀ iw ∈ s.prog, ∃ i, decode s.cfg.opc iw = .instr i) →
    step s = .next t → step (recode o s) = .next (recode o t)

/-! ### Numeric helpers and the snapshot -/

/-- `FixedToTruncatedInt` is the division by 16 toward minus infinity, as a 16-bit pattern (40_numeric.md R125,
its sentence marked derived). -/
def Obligations.TruncatedIntIsFloor : Prop :=
  ∀ raw : Raw16, fixedToTruncatedInt raw = u16 (raw.toInt / 16)

/-- `SignExtend16to32`: its formula, its low half is the argument, its sign bit is bit 15, and its signed reading
is that of the argument (40_numeric.md R120). -/
def Obligations.SignExtensionLaws : Prop :=
  ∀ v : Raw16,
    (v.getLsbD 15 = true → signExtend16to32 v = v.setWidth 32 ||| 0xFFFF0000#32) ∧
    (v.getLsbD 15 = false → signExtend16to32 v = v.setWidth 32) ∧
    (signExtend16to32 v).toNat % 65536 = v.toNat ∧ (signExtend16to32 v).getLsbD 31 = v.getLsbD 15 ∧
    (signExtend16to32 v).toInt = v.toInt

/-- The fixed-point reading is the signed reading divided by 16, and converting it back gives the pattern, whatever
the rounding, on the rationals and on the reals (40_numeric.md R121 and R129, their sentences marked derived;
95_test_vectors.md S1; the names of the roundings beside the default are the model's, log 8). -/
def Obligations.FixedPointRoundTrip : Prop :=
  ∀ (c : Config) (raw : Raw16),
    fixedToFloat raw = (raw.toInt : Rat) / 16 ∧ floatToFixed c (fixedToFloat raw) = raw ∧
    floatToFixed c (fixedToFloat raw : Real) = raw

/-- The snapshot after the step from `before` to `after` shows, as raw patterns, every part of 10_state.md R51: `pc`
before and after, in words and in bytes; the opcode byte of the word at `pc` before; `u16(pc)` at the reserved
scalar index (decision D6) and `x[i]` at every other; the flags as N, Z, P at bits 2, 1, 0 (R28, decision D15) and
the status bits LINE, TRIANGLE, DRAW, FLUSH at bits 0 to 3 (R40, decision D16); every vector register; the three
vertex slots; and, under admitted parameters, no other register. That it is a function of two states, and that it
shows the content of what has not been written since reset, are the model's choices, log 7 and log 14. -/
def Obligations.SnapshotShowsState : Prop :=
  ∀ (before after : State) (s : Snapshot), s = snapshot before after →
    s.currentPc = before.pc ∧ s.currentPcBytes = 4 * before.pc ∧
    s.nextPc = after.pc ∧ s.nextPcBytes = 4 * after.pc ∧
    (∀ iw, 0 ≤ before.pc → before.prog[before.pc.toNat]? = some iw →
      s.currentOpcode = some (iw.extractLsb' 24 8)) ∧
    (∀ i : SIdx, i.toNat < after.cfg.nsreg →
      s.scalars[i.toNat]? = some (if i = after.cfg.pcIdx then u16 after.pc else after.scalar i)) ∧
    (s.cc.getLsbD 2 = true ↔ after.cc = .N) ∧ (s.cc.getLsbD 1 = true ↔ after.cc = .Z) ∧
    (s.cc.getLsbD 0 = true ↔ after.cc = .P) ∧
    s.gsr.getLsbD 0 = after.gsr.LINE ∧ s.gsr.getLsbD 1 = after.gsr.TRIANGLE ∧
    s.gsr.getLsbD 2 = after.gsr.DRAW ∧ s.gsr.getLsbD 3 = after.gsr.FLUSH ∧
    (∀ j : VIdx, j.toNat < after.cfg.nvreg → s.vectors[j.toNat]? = some (after.vector j)) ∧
    s.vertices = [after.vertex 0, after.vertex 1, after.vertex 2] ∧
    (after.cfg.Valid → s.scalars.length = after.cfg.nsreg ∧ s.vectors.length = after.cfg.nvreg)

/-- `FloatToFixed` of a real `f`: whatever the rounding, it is exact modulo 65536 where `16·f` is an integer; under
the default rounding (decision D32) it is, modulo 65536, the integer next to `16·f` toward zero (40_numeric.md
R123; the names of the roundings beside the default are the model's, log 8). -/
def Obligations.RealToFixedTruncates : Prop :=
  ∀ f : Real,
    (∀ (c : Config) (n : Int), 16 * f = n → floatToFixed c f = u16 n) ∧
    ∃ n : Int, floatToFixed Config.specDefault f = u16 n ∧ |(n : Real)| ≤ |16 * f| ∧ |16 * f - n| < 1 ∧
      0 ≤ (n : Real) * f
end

