-- ==== Sys2Proof/Laws/Decode.lean ====
section
/-! SUPPORT. Each field of each format is read back from the word it was put in, and an opcode value of an
injective `OPC` selects its own mnemonic. -/

namespace Sys2Proof

/-- Bit `i` of a placed field. -/
theorem getLsbD_place {n lo : Nat} (f : BitVec n) (i : Nat) :
    (place lo f).getLsbD i = (decide (i < 32) && !decide (i < lo) && f.getLsbD (i - lo)) := by
  simp only [place, BitVec.getLsbD_shiftLeft, BitVec.getLsbD_setWidth]
  by_cases h : i < 32
  · have : i - lo < 32 := by omega
    simp [h, this]
  · simp [h]

@[simp] theorem fieldOp_packR3 (op : OpByte) (d s1 s2 : SIdx) : fieldOp (packR3 op d s1 s2) = op := by
  apply BitVec.eq_of_getLsbD_eq
  intro i hi
  interval_cases i <;> simp [fieldOp, packR3, getLsbD_place, -BitVec.getLsbD_eq_getElem]

@[simp] theorem fieldD_packR3 (op : OpByte) (d s1 s2 : SIdx) : fieldD (packR3 op d s1 s2) = d := by
  apply BitVec.eq_of_getLsbD_eq
  intro i hi
  interval_cases i <;> simp [fieldD, packR3, getLsbD_place, -BitVec.getLsbD_eq_getElem]

@[simp] theorem fieldS1_packR3 (op : OpByte) (d s1 s2 : SIdx) : fieldS1 (packR3 op d s1 s2) = s1 := by
  apply BitVec.eq_of_getLsbD_eq
  intro i hi
  interval_cases i <;> simp [fieldS1, packR3, getLsbD_place, -BitVec.getLsbD_eq_getElem]

@[simp] theorem fieldS2_packR3 (op : OpByte) (d s1 s2 : SIdx) : fieldS2 (packR3 op d s1 s2) = s2 := by
  apply BitVec.eq_of_getLsbD_eq
  intro i hi
  interval_cases i <;> simp [fieldS2, packR3, getLsbD_place, -BitVec.getLsbD_eq_getElem]

@[simp] theorem fieldOp_packRI (op : OpByte) (d s1 : SIdx) (imm : Raw16) : fieldOp (packRI op d s1 imm) = op := by
  apply BitVec.eq_of_getLsbD_eq
  intro i hi
  interval_cases i <;> simp [fieldOp, packRI, getLsbD_place, -BitVec.getLsbD_eq_getElem]

@[simp] theorem fieldD_packRI (op : OpByte) (d s1 : SIdx) (imm : Raw16) : fieldD (packRI op d s1 imm) = d := by
  apply BitVec.eq_of_getLsbD_eq
  intro i hi
  interval_cases i <;> simp [fieldD, packRI, getLsbD_place, -BitVec.getLsbD_eq_getElem]

@[simp] theorem fieldS1_packRI (op : OpByte) (d s1 : SIdx) (imm : Raw16) : fieldS1 (packRI op d s1 imm) = s1 := by
  apply BitVec.eq_of_getLsbD_eq
  intro i hi
  interval_cases i <;> simp [fieldS1, packRI, getLsbD_place, -BitVec.getLsbD_eq_getElem]

@[simp] theorem fieldImm_packRI (op : OpByte) (d s1 : SIdx) (imm : Raw16) : fieldImm (packRI op d s1 imm) = imm
    := by
  apply BitVec.eq_of_getLsbD_eq
  intro i hi
  interval_cases i <;> simp [fieldImm, packRI, getLsbD_place, -BitVec.getLsbD_eq_getElem]

@[simp] theorem fieldOp_packM2 (op : OpByte) (a b : SIdx) : fieldOp (packM2 op a b) = op := by
  apply BitVec.eq_of_getLsbD_eq
  intro i hi
  interval_cases i <;> simp [fieldOp, packM2, getLsbD_place, -BitVec.getLsbD_eq_getElem]

@[simp] theorem fieldMd_packM2 (op : OpByte) (a b : SIdx) : fieldMd (packM2 op a b) = a := by
  apply BitVec.eq_of_getLsbD_eq
  intro i hi
  interval_cases i <;> simp [fieldMd, packM2, getLsbD_place, -BitVec.getLsbD_eq_getElem]

@[simp] theorem fieldMs_packM2 (op : OpByte) (a b : SIdx) : fieldMs (packM2 op a b) = b := by
  apply BitVec.eq_of_getLsbD_eq
  intro i hi
  interval_cases i <;> simp [fieldMs, packM2, getLsbD_place, -BitVec.getLsbD_eq_getElem]

@[simp] theorem fieldS1_packM2 (op : OpByte) (a b : SIdx) : fieldS1 (packM2 op a b) = a := by
  apply BitVec.eq_of_getLsbD_eq
  intro i hi
  interval_cases i <;> simp [fieldS1, packM2, getLsbD_place, -BitVec.getLsbD_eq_getElem]

@[simp] theorem fieldS2_packM2 (op : OpByte) (a b : SIdx) : fieldS2 (packM2 op a b) = b := by
  apply BitVec.eq_of_getLsbD_eq
  intro i hi
  interval_cases i <;> simp [fieldS2, packM2, getLsbD_place, -BitVec.getLsbD_eq_getElem]

@[simp] theorem fieldOp_packMI (op : OpByte) (a : SIdx) (imm : Raw16) : fieldOp (packMI op a imm) = op := by
  apply BitVec.eq_of_getLsbD_eq
  intro i hi
  interval_cases i <;> simp [fieldOp, packMI, getLsbD_place, -BitVec.getLsbD_eq_getElem]

@[simp] theorem fieldMd_packMI (op : OpByte) (a : SIdx) (imm : Raw16) : fieldMd (packMI op a imm) = a := by
  apply BitVec.eq_of_getLsbD_eq
  intro i hi
  interval_cases i <;> simp [fieldMd, packMI, getLsbD_place, -BitVec.getLsbD_eq_getElem]

@[simp] theorem fieldS1_packMI (op : OpByte) (a : SIdx) (imm : Raw16) : fieldS1 (packMI op a imm) = a := by
  apply BitVec.eq_of_getLsbD_eq
  intro i hi
  interval_cases i <;> simp [fieldS1, packMI, getLsbD_place, -BitVec.getLsbD_eq_getElem]

@[simp] theorem fieldImm_packMI (op : OpByte) (a : SIdx) (imm : Raw16) : fieldImm (packMI op a imm) = imm := by
  apply BitVec.eq_of_getLsbD_eq
  intro i hi
  interval_cases i <;> simp [fieldImm, packMI, getLsbD_place, -BitVec.getLsbD_eq_getElem]

@[simp] theorem fieldOp_packV3 (op : OpByte) (vd vs1 vs2 : VIdx) : fieldOp (packV3 op vd vs1 vs2) = op := by
  apply BitVec.eq_of_getLsbD_eq
  intro i hi
  interval_cases i <;> simp [fieldOp, packV3, getLsbD_place, -BitVec.getLsbD_eq_getElem]

@[simp] theorem fieldVd_packV3 (op : OpByte) (vd vs1 vs2 : VIdx) : fieldVd (packV3 op vd vs1 vs2) = vd := by
  apply BitVec.eq_of_getLsbD_eq
  intro i hi
  interval_cases i <;> simp [fieldVd, packV3, getLsbD_place, -BitVec.getLsbD_eq_getElem]

@[simp] theorem fieldVs1_packV3 (op : OpByte) (vd vs1 vs2 : VIdx) : fieldVs1 (packV3 op vd vs1 vs2) = vs1 := by
  apply BitVec.eq_of_getLsbD_eq
  intro i hi
  interval_cases i <;> simp [fieldVs1, packV3, getLsbD_place, -BitVec.getLsbD_eq_getElem]

@[simp] theorem fieldVs2_packV3 (op : OpByte) (vd vs1 vs2 : VIdx) : fieldVs2 (packV3 op vd vs1 vs2) = vs2 := by
  apply BitVec.eq_of_getLsbD_eq
  intro i hi
  interval_cases i <;> simp [fieldVs2, packV3, getLsbD_place, -BitVec.getLsbD_eq_getElem]

@[simp] theorem fieldOp_packV2 (op : OpByte) (vd vs1 : VIdx) : fieldOp (packV2 op vd vs1) = op := by
  apply BitVec.eq_of_getLsbD_eq
  intro i hi
  interval_cases i <;> simp [fieldOp, packV2, getLsbD_place, -BitVec.getLsbD_eq_getElem]

@[simp] theorem fieldVd_packV2 (op : OpByte) (vd vs1 : VIdx) : fieldVd (packV2 op vd vs1) = vd := by
  apply BitVec.eq_of_getLsbD_eq
  intro i hi
  interval_cases i <;> simp [fieldVd, packV2, getLsbD_place, -BitVec.getLsbD_eq_getElem]

@[simp] theorem fieldVs1_packV2 (op : OpByte) (vd vs1 : VIdx) : fieldVs1 (packV2 op vd vs1) = vs1 := by
  apply BitVec.eq_of_getLsbD_eq
  intro i hi
  interval_cases i <;> simp [fieldVs1, packV2, getLsbD_place, -BitVec.getLsbD_eq_getElem]

@[simp] theorem fieldOp_packVI (op : OpByte) (vd : VIdx) (imm : Raw16) : fieldOp (packVI op vd imm) = op := by
  apply BitVec.eq_of_getLsbD_eq
  intro i hi
  interval_cases i <;> simp [fieldOp, packVI, getLsbD_place, -BitVec.getLsbD_eq_getElem]

@[simp] theorem fieldVd_packVI (op : OpByte) (vd : VIdx) (imm : Raw16) : fieldVd (packVI op vd imm) = vd := by
  apply BitVec.eq_of_getLsbD_eq
  intro i hi
  interval_cases i <;> simp [fieldVd, packVI, getLsbD_place, -BitVec.getLsbD_eq_getElem]

@[simp] theorem fieldImm_packVI (op : OpByte) (vd : VIdx) (imm : Raw16) : fieldImm (packVI op vd imm) = imm := by
  apply BitVec.eq_of_getLsbD_eq
  intro i hi
  interval_cases i <;> simp [fieldImm, packVI, getLsbD_place, -BitVec.getLsbD_eq_getElem]

@[simp] theorem fieldOp_packLR (op : OpByte) (lane : LaneIdx) (vd : VIdx) (s2 : SIdx) : fieldOp (packLR op lane
    vd s2) = op := by
  apply BitVec.eq_of_getLsbD_eq
  intro i hi
  interval_cases i <;> simp [fieldOp, packLR, getLsbD_place, -BitVec.getLsbD_eq_getElem]

@[simp] theorem fieldLane_packLR (op : OpByte) (lane : LaneIdx) (vd : VIdx) (s2 : SIdx) : fieldLane (packLR op
    lane vd s2) = lane := by
  apply BitVec.eq_of_getLsbD_eq
  intro i hi
  interval_cases i <;> simp [fieldLane, packLR, getLsbD_place, -BitVec.getLsbD_eq_getElem]

@[simp] theorem fieldVd_packLR (op : OpByte) (lane : LaneIdx) (vd : VIdx) (s2 : SIdx) : fieldVd (packLR op lane
    vd s2) = vd := by
  apply BitVec.eq_of_getLsbD_eq
  intro i hi
  interval_cases i <;> simp [fieldVd, packLR, getLsbD_place, -BitVec.getLsbD_eq_getElem]

@[simp] theorem fieldS2_packLR (op : OpByte) (lane : LaneIdx) (vd : VIdx) (s2 : SIdx) : fieldS2 (packLR op lane
    vd s2) = s2 := by
  apply BitVec.eq_of_getLsbD_eq
  intro i hi
  interval_cases i <;> simp [fieldS2, packLR, getLsbD_place, -BitVec.getLsbD_eq_getElem]

@[simp] theorem fieldOp_packLI (op : OpByte) (lane : LaneIdx) (vd : VIdx) (imm : Raw16) : fieldOp (packLI op lane
    vd imm) = op := by
  apply BitVec.eq_of_getLsbD_eq
  intro i hi
  interval_cases i <;> simp [fieldOp, packLI, getLsbD_place, -BitVec.getLsbD_eq_getElem]

@[simp] theorem fieldLane_packLI (op : OpByte) (lane : LaneIdx) (vd : VIdx) (imm : Raw16) : fieldLane (packLI op
    lane vd imm) = lane := by
  apply BitVec.eq_of_getLsbD_eq
  intro i hi
  interval_cases i <;> simp [fieldLane, packLI, getLsbD_place, -BitVec.getLsbD_eq_getElem]

@[simp] theorem fieldVd_packLI (op : OpByte) (lane : LaneIdx) (vd : VIdx) (imm : Raw16) : fieldVd (packLI op lane
    vd imm) = vd := by
  apply BitVec.eq_of_getLsbD_eq
  intro i hi
  interval_cases i <;> simp [fieldVd, packLI, getLsbD_place, -BitVec.getLsbD_eq_getElem]

@[simp] theorem fieldImm_packLI (op : OpByte) (lane : LaneIdx) (vd : VIdx) (imm : Raw16) : fieldImm (packLI op
    lane vd imm) = imm := by
  apply BitVec.eq_of_getLsbD_eq
  intro i hi
  interval_cases i <;> simp [fieldImm, packLI, getLsbD_place, -BitVec.getLsbD_eq_getElem]

@[simp] theorem fieldOp_packG1 (op : OpByte) (vd : VIdx) : fieldOp (packG1 op vd) = op := by
  apply BitVec.eq_of_getLsbD_eq
  intro i hi
  interval_cases i <;> simp [fieldOp, packG1, getLsbD_place, -BitVec.getLsbD_eq_getElem]

@[simp] theorem fieldVd_packG1 (op : OpByte) (vd : VIdx) : fieldVd (packG1 op vd) = vd := by
  apply BitVec.eq_of_getLsbD_eq
  intro i hi
  interval_cases i <;> simp [fieldVd, packG1, getLsbD_place, -BitVec.getLsbD_eq_getElem]

@[simp] theorem fieldOp_packP (op : OpByte) (a : BitVec 4) : fieldOp (packP op a) = op := by
  apply BitVec.eq_of_getLsbD_eq
  intro i hi
  interval_cases i <;> simp [fieldOp, packP, getLsbD_place, -BitVec.getLsbD_eq_getElem]

@[simp] theorem fieldPrim_packP (op : OpByte) (a : BitVec 4) : fieldPrim (packP op a) = a := by
  apply BitVec.eq_of_getLsbD_eq
  intro i hi
  interval_cases i <;> simp [fieldPrim, packP, getLsbD_place, -BitVec.getLsbD_eq_getElem]

@[simp] theorem fieldS1_packP (op : OpByte) (a : BitVec 4) : fieldS1 (packP op a) = a := by
  apply BitVec.eq_of_getLsbD_eq
  intro i hi
  interval_cases i <;> simp [fieldS1, packP, getLsbD_place, -BitVec.getLsbD_eq_getElem]

@[simp] theorem fieldOp_packB (op : OpByte) (imm : Raw16) : fieldOp (packB op imm) = op := by
  apply BitVec.eq_of_getLsbD_eq
  intro i hi
  interval_cases i <;> simp [fieldOp, packB, getLsbD_place, -BitVec.getLsbD_eq_getElem]

@[simp] theorem fieldImm_packB (op : OpByte) (imm : Raw16) : fieldImm (packB op imm) = imm := by
  apply BitVec.eq_of_getLsbD_eq
  intro i hi
  interval_cases i <;> simp [fieldImm, packB, getLsbD_place, -BitVec.getLsbD_eq_getElem]

@[simp] theorem fieldOp_packZ (op : OpByte) : fieldOp (packZ op) = op := by
  apply BitVec.eq_of_getLsbD_eq
  intro i hi
  interval_cases i <;> simp [fieldOp, packZ, getLsbD_place, -BitVec.getLsbD_eq_getElem]

/-! ### The fields of a word, put back by its format, are the word's used bits -/

theorem packR3_fields (iw : IWord) : packR3 (fieldOp iw) (fieldD iw) (fieldS1 iw) (fieldS2 iw) = iw &&&
    0xFFFF0F00#32 := by
  apply BitVec.eq_of_getLsbD_eq
  intro i hi
  interval_cases i <;> simp [packR3, fieldOp, fieldD, fieldS1, fieldS2, getLsbD_place, -BitVec.getLsbD_eq_getElem]

theorem packRI_fields (iw : IWord) : packRI (fieldOp iw) (fieldD iw) (fieldS1 iw) (fieldImm iw) = iw &&&
    0xFFFFFFFF#32 := by
  apply BitVec.eq_of_getLsbD_eq
  intro i hi
  interval_cases i <;> simp [packRI, fieldOp, fieldD, fieldS1, fieldImm, getLsbD_place, -BitVec.getLsbD_eq_getElem]

theorem packM2_fields (iw : IWord) : packM2 (fieldOp iw) (fieldS1 iw) (fieldS2 iw) = iw &&& 0xFF0F0F00#32 := by
  apply BitVec.eq_of_getLsbD_eq
  intro i hi
  interval_cases i <;> simp [packM2, fieldOp, fieldS1, fieldS2, getLsbD_place, -BitVec.getLsbD_eq_getElem]

theorem packMI_fields (iw : IWord) : packMI (fieldOp iw) (fieldS1 iw) (fieldImm iw) = iw &&& 0xFF0FFFFF#32 := by
  apply BitVec.eq_of_getLsbD_eq
  intro i hi
  interval_cases i <;> simp [packMI, fieldOp, fieldS1, fieldImm, getLsbD_place, -BitVec.getLsbD_eq_getElem]

theorem packV3_fields (iw : IWord) : packV3 (fieldOp iw) (fieldVd iw) (fieldVs1 iw) (fieldVs2 iw) = iw &&&
    0xFF3F3F3F#32 := by
  apply BitVec.eq_of_getLsbD_eq
  intro i hi
  interval_cases i <;> simp [packV3, fieldOp, fieldVd, fieldVs1, fieldVs2, getLsbD_place,
      -BitVec.getLsbD_eq_getElem]

theorem packV2_fields (iw : IWord) : packV2 (fieldOp iw) (fieldVd iw) (fieldVs1 iw) = iw &&& 0xFF3F3F00#32 := by
  apply BitVec.eq_of_getLsbD_eq
  intro i hi
  interval_cases i <;> simp [packV2, fieldOp, fieldVd, fieldVs1, getLsbD_place, -BitVec.getLsbD_eq_getElem]

theorem packVI_fields (iw : IWord) : packVI (fieldOp iw) (fieldVd iw) (fieldImm iw) = iw &&& 0xFF3FFFFF#32 := by
  apply BitVec.eq_of_getLsbD_eq
  intro i hi
  interval_cases i <;> simp [packVI, fieldOp, fieldVd, fieldImm, getLsbD_place, -BitVec.getLsbD_eq_getElem]

theorem packLR_fields (iw : IWord) : packLR (fieldOp iw) (fieldLane iw) (fieldVd iw) (fieldS2 iw) = iw &&&
    0xFFFF0F00#32 := by
  apply BitVec.eq_of_getLsbD_eq
  intro i hi
  interval_cases i <;> simp [packLR, fieldOp, fieldLane, fieldVd, fieldS2, getLsbD_place,
      -BitVec.getLsbD_eq_getElem]

theorem packLI_fields (iw : IWord) : packLI (fieldOp iw) (fieldLane iw) (fieldVd iw) (fieldImm iw) = iw &&&
    0xFFFFFFFF#32 := by
  apply BitVec.eq_of_getLsbD_eq
  intro i hi
  interval_cases i <;> simp [packLI, fieldOp, fieldLane, fieldVd, fieldImm, getLsbD_place,
      -BitVec.getLsbD_eq_getElem]

theorem packG1_fields (iw : IWord) : packG1 (fieldOp iw) (fieldVd iw) = iw &&& 0xFF3F0000#32 := by
  apply BitVec.eq_of_getLsbD_eq
  intro i hi
  interval_cases i <;> simp [packG1, fieldOp, fieldVd, getLsbD_place, -BitVec.getLsbD_eq_getElem]

theorem packP_fields (iw : IWord) : packP (fieldOp iw) (fieldS1 iw) = iw &&& 0xFF0F0000#32 := by
  apply BitVec.eq_of_getLsbD_eq
  intro i hi
  interval_cases i <;> simp [packP, fieldOp, fieldS1, getLsbD_place, -BitVec.getLsbD_eq_getElem]

theorem packB_fields (iw : IWord) : packB (fieldOp iw) (fieldImm iw) = iw &&& 0xFF00FFFF#32 := by
  apply BitVec.eq_of_getLsbD_eq
  intro i hi
  interval_cases i <;> simp [packB, fieldOp, fieldImm, getLsbD_place, -BitVec.getLsbD_eq_getElem]

theorem packZ_fields (iw : IWord) : packZ (fieldOp iw) = iw &&& 0xFF000000#32 := by
  apply BitVec.eq_of_getLsbD_eq
  intro i hi
  interval_cases i <;> simp [packZ, fieldOp, getLsbD_place, -BitVec.getLsbD_eq_getElem]

theorem fieldMd_eq (iw : IWord) : fieldMd iw = fieldS1 iw := rfl
theorem fieldMs_eq (iw : IWord) : fieldMs iw = fieldS2 iw := rfl
theorem fieldPrim_eq (iw : IWord) : fieldPrim iw = fieldS1 iw := rfl

theorem Mnem.mem_all (m : Mnem) : m ∈ Mnem.all := by cases m <;> decide

/-- Under an injective `OPC`, the opcode value of `m` belongs to no other mnemonic. -/
theorem Opc.code_injective {o : Opc} (h : o.Injective) {m m' : Mnem} (e : o.code m = o.code m') : m = m' :=
  List.inj_on_of_nodup_map h (Mnem.mem_all m) (Mnem.mem_all m') e

/-- Under an injective `OPC`, the opcode value of `m` selects `m`. -/
theorem Opc.mnemOf_code {o : Opc} (h : o.Injective) (m : Mnem) : o.mnemOf (o.code m) = some m := by
  cases hf : o.mnemOf (o.code m) with
  | none =>
    have := List.find?_eq_none.1 hf m (Mnem.mem_all m)
    simp at this
  | some m' =>
    have := List.find?_some hf
    simp only [beq_iff_eq] at this
    rw [Opc.code_injective h this]

/-- The mnemonic found for an opcode value has that value. -/
theorem Opc.code_of_mnemOf {o : Opc} {op : OpByte} {m : Mnem} (h : o.mnemOf op = some m) : o.code m = op := by
  simpa using List.find?_some h

/-- What the decoder answers when the opcode is one of `OPC`'s. -/
theorem decode_of_mnemOf {o : Opc} {iw : IWord} {m : Mnem} (h : o.mnemOf (fieldOp iw) = some m) :
    decode o iw = .instr (decodeAs m iw) := by simp [decode, h]

/-- All the decoder can answer. -/
theorem decode_cases (o : Opc) (iw : IWord) :
    (∃ m, o.code m = fieldOp iw ∧ decode o iw = .instr (decodeAs m iw)) ∨
      ((∀ m, o.code m ≠ fieldOp iw) ∧ decode o iw = .nop (fieldOp iw)) := by
  cases h : o.mnemOf (fieldOp iw) with
  | some m => exact .inl ⟨m, Opc.code_of_mnemOf h, decode_of_mnemOf h⟩
  | none =>
    refine .inr ⟨fun m e => ?_, by simp [decode, h]⟩
    have := List.find?_eq_none.1 h m (Mnem.mem_all m)
    simp [e] at this

/-- The instruction decoded under the tag `m` has the tag `m`. -/
@[simp] theorem decodeAs_mnem (m : Mnem) (iw : IWord) : (decodeAs m iw).mnem = m := by cases m <;> rfl

end Sys2Proof
end

