-- ==== Sys2Proof/Laws/State.lean ====
section
/-! SUPPORT. One lemma per field per update of State, so that no proof unfolds a record update. -/

namespace Sys2Proof.Machine

section Fields

variable (s : State)

@[simp] theorem State.setByte_cfg (a : Nat) (w : Byte) : (s.setByte a w).cfg = s.cfg := rfl
@[simp] theorem State.setByte_prog (a : Nat) (w : Byte) : (s.setByte a w).prog = s.prog := rfl
@[simp] theorem State.setByte_x (a : Nat) (w : Byte) : (s.setByte a w).x = s.x := rfl
@[simp] theorem State.setByte_xw (a : Nat) (w : Byte) : (s.setByte a w).xw = s.xw := rfl
@[simp] theorem State.setByte_pc (a : Nat) (w : Byte) : (s.setByte a w).pc = s.pc := rfl
@[simp] theorem State.setByte_cc (a : Nat) (w : Byte) : (s.setByte a w).cc = s.cc := rfl
@[simp] theorem State.setByte_ccw (a : Nat) (w : Byte) : (s.setByte a w).ccw = s.ccw := rfl
@[simp] theorem State.setByte_v (a : Nat) (w : Byte) : (s.setByte a w).v = s.v := rfl
@[simp] theorem State.setByte_vw (a : Nat) (w : Byte) : (s.setByte a w).vw = s.vw := rfl
@[simp] theorem State.setByte_vtx (a : Nat) (w : Byte) : (s.setByte a w).vtx = s.vtx := rfl
@[simp] theorem State.setByte_cur (a : Nat) (w : Byte) : (s.setByte a w).cur = s.cur := rfl
@[simp] theorem State.setByte_gsr (a : Nat) (w : Byte) : (s.setByte a w).gsr = s.gsr := rfl
@[simp] theorem State.setByte_halted (a : Nat) (w : Byte) : (s.setByte a w).halted = s.halted := rfl
@[simp] theorem State.setByte_fault (a : Nat) (w : Byte) : (s.setByte a w).fault = s.fault := rfl
@[simp] theorem State.setByte_mem (a : Nat) (w : Byte) : (s.setByte a w).mem = s.mem.write a w := rfl

@[simp] theorem State.writeScalar_cfg (i : SIdx) (val : Raw16) : (s.writeScalar i val).cfg = s.cfg := rfl
@[simp] theorem State.writeScalar_prog (i : SIdx) (val : Raw16) : (s.writeScalar i val).prog = s.prog := rfl
@[simp] theorem State.writeScalar_x (i : SIdx) (val : Raw16) : (s.writeScalar i val).x = s.x.set i.toNat val
    i.isLt := rfl
@[simp] theorem State.writeScalar_xw (i : SIdx) (val : Raw16) : (s.writeScalar i val).xw = s.xw.set i.toNat true
    i.isLt := rfl
@[simp] theorem State.writeScalar_pc (i : SIdx) (val : Raw16) : (s.writeScalar i val).pc = s.pc := rfl
@[simp] theorem State.writeScalar_cc (i : SIdx) (val : Raw16) : (s.writeScalar i val).cc = s.cc := rfl
@[simp] theorem State.writeScalar_ccw (i : SIdx) (val : Raw16) : (s.writeScalar i val).ccw = s.ccw := rfl
@[simp] theorem State.writeScalar_v (i : SIdx) (val : Raw16) : (s.writeScalar i val).v = s.v := rfl
@[simp] theorem State.writeScalar_vw (i : SIdx) (val : Raw16) : (s.writeScalar i val).vw = s.vw := rfl
@[simp] theorem State.writeScalar_vtx (i : SIdx) (val : Raw16) : (s.writeScalar i val).vtx = s.vtx := rfl
@[simp] theorem State.writeScalar_cur (i : SIdx) (val : Raw16) : (s.writeScalar i val).cur = s.cur := rfl
@[simp] theorem State.writeScalar_gsr (i : SIdx) (val : Raw16) : (s.writeScalar i val).gsr = s.gsr := rfl
@[simp] theorem State.writeScalar_halted (i : SIdx) (val : Raw16) : (s.writeScalar i val).halted = s.halted := rfl
@[simp] theorem State.writeScalar_fault (i : SIdx) (val : Raw16) : (s.writeScalar i val).fault = s.fault := rfl
@[simp] theorem State.writeScalar_mem (i : SIdx) (val : Raw16) : (s.writeScalar i val).mem = s.mem := rfl

@[simp] theorem State.writeVector_cfg (j : VIdx) (l : Lanes Raw16) : (s.writeVector j l).cfg = s.cfg := rfl
@[simp] theorem State.writeVector_prog (j : VIdx) (l : Lanes Raw16) : (s.writeVector j l).prog = s.prog := rfl
@[simp] theorem State.writeVector_x (j : VIdx) (l : Lanes Raw16) : (s.writeVector j l).x = s.x := rfl
@[simp] theorem State.writeVector_xw (j : VIdx) (l : Lanes Raw16) : (s.writeVector j l).xw = s.xw := rfl
@[simp] theorem State.writeVector_pc (j : VIdx) (l : Lanes Raw16) : (s.writeVector j l).pc = s.pc := rfl
@[simp] theorem State.writeVector_cc (j : VIdx) (l : Lanes Raw16) : (s.writeVector j l).cc = s.cc := rfl
@[simp] theorem State.writeVector_ccw (j : VIdx) (l : Lanes Raw16) : (s.writeVector j l).ccw = s.ccw := rfl
@[simp] theorem State.writeVector_v (j : VIdx) (l : Lanes Raw16) : (s.writeVector j l).v = s.v.set j.toNat l
    j.isLt := rfl
@[simp] theorem State.writeVector_vw (j : VIdx) (l : Lanes Raw16) : (s.writeVector j l).vw = s.vw.set j.toNat
    (Lanes.all true) j.isLt := rfl
@[simp] theorem State.writeVector_vtx (j : VIdx) (l : Lanes Raw16) : (s.writeVector j l).vtx = s.vtx := rfl
@[simp] theorem State.writeVector_cur (j : VIdx) (l : Lanes Raw16) : (s.writeVector j l).cur = s.cur := rfl
@[simp] theorem State.writeVector_gsr (j : VIdx) (l : Lanes Raw16) : (s.writeVector j l).gsr = s.gsr := rfl
@[simp] theorem State.writeVector_halted (j : VIdx) (l : Lanes Raw16) : (s.writeVector j l).halted = s.halted := rfl
@[simp] theorem State.writeVector_fault (j : VIdx) (l : Lanes Raw16) : (s.writeVector j l).fault = s.fault := rfl
@[simp] theorem State.writeVector_mem (j : VIdx) (l : Lanes Raw16) : (s.writeVector j l).mem = s.mem := rfl

@[simp] theorem State.writeLane_cfg (j : VIdx) (k : LaneIdx) (val : Raw16) : (s.writeLane j k val).cfg = s.cfg :=
    rfl
@[simp] theorem State.writeLane_prog (j : VIdx) (k : LaneIdx) (val : Raw16) : (s.writeLane j k val).prog = s.prog
    := rfl
@[simp] theorem State.writeLane_x (j : VIdx) (k : LaneIdx) (val : Raw16) : (s.writeLane j k val).x = s.x := rfl
@[simp] theorem State.writeLane_xw (j : VIdx) (k : LaneIdx) (val : Raw16) : (s.writeLane j k val).xw = s.xw := rfl
@[simp] theorem State.writeLane_pc (j : VIdx) (k : LaneIdx) (val : Raw16) : (s.writeLane j k val).pc = s.pc := rfl
@[simp] theorem State.writeLane_cc (j : VIdx) (k : LaneIdx) (val : Raw16) : (s.writeLane j k val).cc = s.cc := rfl
@[simp] theorem State.writeLane_ccw (j : VIdx) (k : LaneIdx) (val : Raw16) : (s.writeLane j k val).ccw = s.ccw :=
    rfl
@[simp] theorem State.writeLane_v (j : VIdx) (k : LaneIdx) (val : Raw16) : (s.writeLane j k val).v = s.v.set
    j.toNat ((s.vector j).set k val) j.isLt := rfl
@[simp] theorem State.writeLane_vw (j : VIdx) (k : LaneIdx) (val : Raw16) : (s.writeLane j k val).vw = s.vw.set
    j.toNat ((s.vectorWritten j).set k true) j.isLt := rfl
@[simp] theorem State.writeLane_vtx (j : VIdx) (k : LaneIdx) (val : Raw16) : (s.writeLane j k val).vtx = s.vtx :=
    rfl
@[simp] theorem State.writeLane_cur (j : VIdx) (k : LaneIdx) (val : Raw16) : (s.writeLane j k val).cur = s.cur :=
    rfl
@[simp] theorem State.writeLane_gsr (j : VIdx) (k : LaneIdx) (val : Raw16) : (s.writeLane j k val).gsr = s.gsr :=
    rfl
@[simp] theorem State.writeLane_halted (j : VIdx) (k : LaneIdx) (val : Raw16) : (s.writeLane j k val).halted =
    s.halted := rfl
@[simp] theorem State.writeLane_fault (j : VIdx) (k : LaneIdx) (val : Raw16) : (s.writeLane j k val).fault =
    s.fault := rfl
@[simp] theorem State.writeLane_mem (j : VIdx) (k : LaneIdx) (val : Raw16) : (s.writeLane j k val).mem = s.mem :=
    rfl

@[simp] theorem State.writeVertex_cfg (n : Fin 3) (w : Vertex) : (s.writeVertex n w).cfg = s.cfg := rfl
@[simp] theorem State.writeVertex_prog (n : Fin 3) (w : Vertex) : (s.writeVertex n w).prog = s.prog := rfl
@[simp] theorem State.writeVertex_x (n : Fin 3) (w : Vertex) : (s.writeVertex n w).x = s.x := rfl
@[simp] theorem State.writeVertex_xw (n : Fin 3) (w : Vertex) : (s.writeVertex n w).xw = s.xw := rfl
@[simp] theorem State.writeVertex_pc (n : Fin 3) (w : Vertex) : (s.writeVertex n w).pc = s.pc := rfl
@[simp] theorem State.writeVertex_cc (n : Fin 3) (w : Vertex) : (s.writeVertex n w).cc = s.cc := rfl
@[simp] theorem State.writeVertex_ccw (n : Fin 3) (w : Vertex) : (s.writeVertex n w).ccw = s.ccw := rfl
@[simp] theorem State.writeVertex_v (n : Fin 3) (w : Vertex) : (s.writeVertex n w).v = s.v := rfl
@[simp] theorem State.writeVertex_vw (n : Fin 3) (w : Vertex) : (s.writeVertex n w).vw = s.vw := rfl
@[simp] theorem State.writeVertex_vtx (n : Fin 3) (w : Vertex) : (s.writeVertex n w).vtx = s.vtx.set n w := rfl
@[simp] theorem State.writeVertex_cur (n : Fin 3) (w : Vertex) : (s.writeVertex n w).cur = s.cur := rfl
@[simp] theorem State.writeVertex_gsr (n : Fin 3) (w : Vertex) : (s.writeVertex n w).gsr = s.gsr := rfl
@[simp] theorem State.writeVertex_halted (n : Fin 3) (w : Vertex) : (s.writeVertex n w).halted = s.halted := rfl
@[simp] theorem State.writeVertex_fault (n : Fin 3) (w : Vertex) : (s.writeVertex n w).fault = s.fault := rfl
@[simp] theorem State.writeVertex_mem (n : Fin 3) (w : Vertex) : (s.writeVertex n w).mem = s.mem := rfl

@[simp] theorem State.mapVertices_cfg (f : Vertex → Vertex) : (s.mapVertices f).cfg = s.cfg := rfl
@[simp] theorem State.mapVertices_prog (f : Vertex → Vertex) : (s.mapVertices f).prog = s.prog := rfl
@[simp] theorem State.mapVertices_x (f : Vertex → Vertex) : (s.mapVertices f).x = s.x := rfl
@[simp] theorem State.mapVertices_xw (f : Vertex → Vertex) : (s.mapVertices f).xw = s.xw := rfl
@[simp] theorem State.mapVertices_pc (f : Vertex → Vertex) : (s.mapVertices f).pc = s.pc := rfl
@[simp] theorem State.mapVertices_cc (f : Vertex → Vertex) : (s.mapVertices f).cc = s.cc := rfl
@[simp] theorem State.mapVertices_ccw (f : Vertex → Vertex) : (s.mapVertices f).ccw = s.ccw := rfl
@[simp] theorem State.mapVertices_v (f : Vertex → Vertex) : (s.mapVertices f).v = s.v := rfl
@[simp] theorem State.mapVertices_vw (f : Vertex → Vertex) : (s.mapVertices f).vw = s.vw := rfl
@[simp] theorem State.mapVertices_vtx (f : Vertex → Vertex) : (s.mapVertices f).vtx = #v[f (s.vertex 0), f
    (s.vertex 1), f (s.vertex 2)] := rfl
@[simp] theorem State.mapVertices_cur (f : Vertex → Vertex) : (s.mapVertices f).cur = s.cur := rfl
@[simp] theorem State.mapVertices_gsr (f : Vertex → Vertex) : (s.mapVertices f).gsr = s.gsr := rfl
@[simp] theorem State.mapVertices_halted (f : Vertex → Vertex) : (s.mapVertices f).halted = s.halted := rfl
@[simp] theorem State.mapVertices_fault (f : Vertex → Vertex) : (s.mapVertices f).fault = s.fault := rfl
@[simp] theorem State.mapVertices_mem (f : Vertex → Vertex) : (s.mapVertices f).mem = s.mem := rfl

@[simp] theorem State.setCur_cfg (n : Fin 3) : (s.setCur n).cfg = s.cfg := rfl
@[simp] theorem State.setCur_prog (n : Fin 3) : (s.setCur n).prog = s.prog := rfl
@[simp] theorem State.setCur_x (n : Fin 3) : (s.setCur n).x = s.x := rfl
@[simp] theorem State.setCur_xw (n : Fin 3) : (s.setCur n).xw = s.xw := rfl
@[simp] theorem State.setCur_pc (n : Fin 3) : (s.setCur n).pc = s.pc := rfl
@[simp] theorem State.setCur_cc (n : Fin 3) : (s.setCur n).cc = s.cc := rfl
@[simp] theorem State.setCur_ccw (n : Fin 3) : (s.setCur n).ccw = s.ccw := rfl
@[simp] theorem State.setCur_v (n : Fin 3) : (s.setCur n).v = s.v := rfl
@[simp] theorem State.setCur_vw (n : Fin 3) : (s.setCur n).vw = s.vw := rfl
@[simp] theorem State.setCur_vtx (n : Fin 3) : (s.setCur n).vtx = s.vtx := rfl
@[simp] theorem State.setCur_cur (n : Fin 3) : (s.setCur n).cur = n := rfl
@[simp] theorem State.setCur_gsr (n : Fin 3) : (s.setCur n).gsr = s.gsr := rfl
@[simp] theorem State.setCur_halted (n : Fin 3) : (s.setCur n).halted = s.halted := rfl
@[simp] theorem State.setCur_fault (n : Fin 3) : (s.setCur n).fault = s.fault := rfl
@[simp] theorem State.setCur_mem (n : Fin 3) : (s.setCur n).mem = s.mem := rfl

@[simp] theorem State.setGsr_cfg (g : Gsr) : (s.setGsr g).cfg = s.cfg := rfl
@[simp] theorem State.setGsr_prog (g : Gsr) : (s.setGsr g).prog = s.prog := rfl
@[simp] theorem State.setGsr_x (g : Gsr) : (s.setGsr g).x = s.x := rfl
@[simp] theorem State.setGsr_xw (g : Gsr) : (s.setGsr g).xw = s.xw := rfl
@[simp] theorem State.setGsr_pc (g : Gsr) : (s.setGsr g).pc = s.pc := rfl
@[simp] theorem State.setGsr_cc (g : Gsr) : (s.setGsr g).cc = s.cc := rfl
@[simp] theorem State.setGsr_ccw (g : Gsr) : (s.setGsr g).ccw = s.ccw := rfl
@[simp] theorem State.setGsr_v (g : Gsr) : (s.setGsr g).v = s.v := rfl
@[simp] theorem State.setGsr_vw (g : Gsr) : (s.setGsr g).vw = s.vw := rfl
@[simp] theorem State.setGsr_vtx (g : Gsr) : (s.setGsr g).vtx = s.vtx := rfl
@[simp] theorem State.setGsr_cur (g : Gsr) : (s.setGsr g).cur = s.cur := rfl
@[simp] theorem State.setGsr_gsr (g : Gsr) : (s.setGsr g).gsr = g := rfl
@[simp] theorem State.setGsr_halted (g : Gsr) : (s.setGsr g).halted = s.halted := rfl
@[simp] theorem State.setGsr_fault (g : Gsr) : (s.setGsr g).fault = s.fault := rfl
@[simp] theorem State.setGsr_mem (g : Gsr) : (s.setGsr g).mem = s.mem := rfl

@[simp] theorem State.setHalted_cfg : (s.setHalted).cfg = s.cfg := rfl
@[simp] theorem State.setHalted_prog : (s.setHalted).prog = s.prog := rfl
@[simp] theorem State.setHalted_x : (s.setHalted).x = s.x := rfl
@[simp] theorem State.setHalted_xw : (s.setHalted).xw = s.xw := rfl
@[simp] theorem State.setHalted_pc : (s.setHalted).pc = s.pc := rfl
@[simp] theorem State.setHalted_cc : (s.setHalted).cc = s.cc := rfl
@[simp] theorem State.setHalted_ccw : (s.setHalted).ccw = s.ccw := rfl
@[simp] theorem State.setHalted_v : (s.setHalted).v = s.v := rfl
@[simp] theorem State.setHalted_vw : (s.setHalted).vw = s.vw := rfl
@[simp] theorem State.setHalted_vtx : (s.setHalted).vtx = s.vtx := rfl
@[simp] theorem State.setHalted_cur : (s.setHalted).cur = s.cur := rfl
@[simp] theorem State.setHalted_gsr : (s.setHalted).gsr = s.gsr := rfl
@[simp] theorem State.setHalted_halted : (s.setHalted).halted = true := rfl
@[simp] theorem State.setHalted_fault : (s.setHalted).fault = s.fault := rfl
@[simp] theorem State.setHalted_mem : (s.setHalted).mem = s.mem := rfl

@[simp] theorem State.setPc_cfg (n : Int) : (s.setPc n).cfg = s.cfg := rfl
@[simp] theorem State.setPc_prog (n : Int) : (s.setPc n).prog = s.prog := rfl
@[simp] theorem State.setPc_x (n : Int) : (s.setPc n).x = s.x := rfl
@[simp] theorem State.setPc_xw (n : Int) : (s.setPc n).xw = s.xw := rfl
@[simp] theorem State.setPc_pc (n : Int) : (s.setPc n).pc = n := rfl
@[simp] theorem State.setPc_cc (n : Int) : (s.setPc n).cc = s.cc := rfl
@[simp] theorem State.setPc_ccw (n : Int) : (s.setPc n).ccw = s.ccw := rfl
@[simp] theorem State.setPc_v (n : Int) : (s.setPc n).v = s.v := rfl
@[simp] theorem State.setPc_vw (n : Int) : (s.setPc n).vw = s.vw := rfl
@[simp] theorem State.setPc_vtx (n : Int) : (s.setPc n).vtx = s.vtx := rfl
@[simp] theorem State.setPc_cur (n : Int) : (s.setPc n).cur = s.cur := rfl
@[simp] theorem State.setPc_gsr (n : Int) : (s.setPc n).gsr = s.gsr := rfl
@[simp] theorem State.setPc_halted (n : Int) : (s.setPc n).halted = s.halted := rfl
@[simp] theorem State.setPc_fault (n : Int) : (s.setPc n).fault = s.fault := rfl
@[simp] theorem State.setPc_mem (n : Int) : (s.setPc n).mem = s.mem := rfl

@[simp] theorem State.takeFault_cfg (f : FaultRecord) : (s.takeFault f).cfg = s.cfg := rfl
@[simp] theorem State.takeFault_prog (f : FaultRecord) : (s.takeFault f).prog = s.prog := rfl
@[simp] theorem State.takeFault_x (f : FaultRecord) : (s.takeFault f).x = s.x := rfl
@[simp] theorem State.takeFault_xw (f : FaultRecord) : (s.takeFault f).xw = s.xw := rfl
@[simp] theorem State.takeFault_pc (f : FaultRecord) : (s.takeFault f).pc = s.pc := rfl
@[simp] theorem State.takeFault_cc (f : FaultRecord) : (s.takeFault f).cc = s.cc := rfl
@[simp] theorem State.takeFault_ccw (f : FaultRecord) : (s.takeFault f).ccw = s.ccw := rfl
@[simp] theorem State.takeFault_v (f : FaultRecord) : (s.takeFault f).v = s.v := rfl
@[simp] theorem State.takeFault_vw (f : FaultRecord) : (s.takeFault f).vw = s.vw := rfl
@[simp] theorem State.takeFault_vtx (f : FaultRecord) : (s.takeFault f).vtx = s.vtx := rfl
@[simp] theorem State.takeFault_cur (f : FaultRecord) : (s.takeFault f).cur = s.cur := rfl
@[simp] theorem State.takeFault_gsr (f : FaultRecord) : (s.takeFault f).gsr = s.gsr := rfl
@[simp] theorem State.takeFault_halted (f : FaultRecord) : (s.takeFault f).halted = s.halted := rfl
@[simp] theorem State.takeFault_fault (f : FaultRecord) : (s.takeFault f).fault = some f := rfl
@[simp] theorem State.takeFault_mem (f : FaultRecord) : (s.takeFault f).mem = s.mem := rfl

@[simp] theorem State.setCC_cfg (a b : Int) : (s.setCC a b).cfg = s.cfg := rfl
@[simp] theorem State.setCC_prog (a b : Int) : (s.setCC a b).prog = s.prog := rfl
@[simp] theorem State.setCC_x (a b : Int) : (s.setCC a b).x = s.x := rfl
@[simp] theorem State.setCC_xw (a b : Int) : (s.setCC a b).xw = s.xw := rfl
@[simp] theorem State.setCC_pc (a b : Int) : (s.setCC a b).pc = s.pc := rfl
@[simp] theorem State.setCC_cc (a b : Int) : (s.setCC a b).cc = compareFlag a b := rfl
@[simp] theorem State.setCC_ccw (a b : Int) : (s.setCC a b).ccw = true := rfl
@[simp] theorem State.setCC_v (a b : Int) : (s.setCC a b).v = s.v := rfl
@[simp] theorem State.setCC_vw (a b : Int) : (s.setCC a b).vw = s.vw := rfl
@[simp] theorem State.setCC_vtx (a b : Int) : (s.setCC a b).vtx = s.vtx := rfl
@[simp] theorem State.setCC_cur (a b : Int) : (s.setCC a b).cur = s.cur := rfl
@[simp] theorem State.setCC_gsr (a b : Int) : (s.setCC a b).gsr = s.gsr := rfl
@[simp] theorem State.setCC_halted (a b : Int) : (s.setCC a b).halted = s.halted := rfl
@[simp] theorem State.setCC_fault (a b : Int) : (s.setCC a b).fault = s.fault := rfl
@[simp] theorem State.setCC_mem (a b : Int) : (s.setCC a b).mem = s.mem := rfl

@[simp] theorem State.setCCResult_cfg (r : Raw16) : (s.setCCResult r).cfg = s.cfg := rfl
@[simp] theorem State.setCCResult_prog (r : Raw16) : (s.setCCResult r).prog = s.prog := rfl
@[simp] theorem State.setCCResult_x (r : Raw16) : (s.setCCResult r).x = s.x := rfl
@[simp] theorem State.setCCResult_xw (r : Raw16) : (s.setCCResult r).xw = s.xw := rfl
@[simp] theorem State.setCCResult_pc (r : Raw16) : (s.setCCResult r).pc = s.pc := rfl
@[simp] theorem State.setCCResult_cc (r : Raw16) : (s.setCCResult r).cc = compareFlag (s16 r) 0 := rfl
@[simp] theorem State.setCCResult_ccw (r : Raw16) : (s.setCCResult r).ccw = true := rfl
@[simp] theorem State.setCCResult_v (r : Raw16) : (s.setCCResult r).v = s.v := rfl
@[simp] theorem State.setCCResult_vw (r : Raw16) : (s.setCCResult r).vw = s.vw := rfl
@[simp] theorem State.setCCResult_vtx (r : Raw16) : (s.setCCResult r).vtx = s.vtx := rfl
@[simp] theorem State.setCCResult_cur (r : Raw16) : (s.setCCResult r).cur = s.cur := rfl
@[simp] theorem State.setCCResult_gsr (r : Raw16) : (s.setCCResult r).gsr = s.gsr := rfl
@[simp] theorem State.setCCResult_halted (r : Raw16) : (s.setCCResult r).halted = s.halted := rfl
@[simp] theorem State.setCCResult_fault (r : Raw16) : (s.setCCResult r).fault = s.fault := rfl
@[simp] theorem State.setCCResult_mem (r : Raw16) : (s.setCCResult r).mem = s.mem := rfl

end Fields

end Sys2Proof.Machine
end

