-- ==== Sys2Proof/Laws/Memory.lean ====
section
/-! SUPPORT. What a read of memory sees after a write, and that every memory operation keeps the canonical
form. -/

namespace Sys2Proof.Machine

theorem Memory.read_eq_unlisted_of_lt {m : Memory} {a : Nat} (h : ∀ c ∈ m, a < c.1) :
    m.read a = unlistedByte := by
  induction m with
  | nil => rfl
  | cons c rest ih =>
    have hc := h c (by simp)
    have hr := ih fun d hd => h d (by simp [hd])
    simp [Memory.read, hr, Nat.ne_of_lt hc]

/-- A write leaves every other address as it was. -/
theorem Memory.read_write_other (m : Memory) {a b : Nat} (w : Byte) (h : b ≠ a) :
    (m.write a w).read b = m.read b := by
  induction m with
  | nil => by_cases hw : w = unlistedByte <;> simp [Memory.write, Memory.read, hw, h]
  | cons c rest ih =>
    obtain ⟨k, u⟩ := c
    simp only [Memory.write]
    split
    · split <;> simp [Memory.read, h]
    · split
      · subst_vars; split <;> simp [Memory.read, h]
      · simp [Memory.read, ih]

/-- A read of the address just written gives the byte written. -/
theorem Memory.read_write_same {m : Memory} (hm : m.WF) (a : Nat) (w : Byte) :
    (m.write a w).read a = w := by
  induction m with
  | nil => by_cases hw : w = unlistedByte <;> simp [Memory.write, Memory.read, hw]
  | cons c rest ih =>
    obtain ⟨k, u⟩ := c
    obtain ⟨hp, hz⟩ := hm
    rw [List.pairwise_cons] at hp
    have hrest : Memory.WF rest := ⟨hp.2, fun d hd => hz d (by simp [hd])⟩
    simp only [Memory.write]
    split
    · rename_i hlt
      split
      · rename_i hw
        rw [hw]
        refine Memory.read_eq_unlisted_of_lt fun d hd => ?_
        rcases List.mem_cons.1 hd with rfl | hd
        · exact hlt
        · exact Nat.lt_trans hlt (hp.1 d hd)
      · simp [Memory.read]
    · split
      · rename_i heq
        subst heq
        split
        · rename_i hw
          rw [hw]
          exact Memory.read_eq_unlisted_of_lt fun d hd => hp.1 d hd
        · simp [Memory.read]
      · rename_i hne
        simp [Memory.read, hne, ih hrest]

/-- An entry of the memory after a write is the written one or was there before. -/
theorem Memory.mem_write {m : Memory} {a : Nat} {w : Byte} {c : Host.Cell} (h : c ∈ m.write a w) :
    (c = (a, w) ∧ w ≠ unlistedByte) ∨ c ∈ m := by
  induction m with
  | nil =>
    simp only [Memory.write] at h
    split at h <;> simp_all
  | cons d rest ih =>
    obtain ⟨k, u⟩ := d
    simp only [Memory.write] at h
    split at h
    · split at h
      · exact .inr h
      · rcases List.mem_cons.1 h with h | h
        · exact .inl ⟨h, ‹_›⟩
        · exact .inr h
    · split at h
      · subst_vars
        split at h
        · exact .inr (List.mem_cons_of_mem _ h)
        · rcases List.mem_cons.1 h with h | h
          · exact .inl ⟨h, ‹_›⟩
          · exact .inr (List.mem_cons_of_mem _ h)
      · rcases List.mem_cons.1 h with h | h
        · exact .inr (by simp [h])
        · rcases ih h with h | h
          · exact .inl h
          · exact .inr (List.mem_cons_of_mem _ h)

/-- A write keeps the canonical form. -/
theorem Memory.write_wf {m : Memory} (hm : m.WF) (a : Nat) (w : Byte) : (m.write a w).WF := by
  refine ⟨?_, ?_⟩
  · induction m with
    | nil =>
      simp only [Memory.write]
      split <;> simp
    | cons d rest ih =>
      obtain ⟨k, u⟩ := d
      obtain ⟨hp, hz⟩ := hm
      have hp' := List.pairwise_cons.1 hp
      have hrest : Memory.WF rest := ⟨hp'.2, fun d hd => hz d (by simp [hd])⟩
      simp only [Memory.write]
      split
      · rename_i hlt
        split
        · exact hp
        · refine List.pairwise_cons.2 ⟨fun e he => ?_, hp⟩
          rcases List.mem_cons.1 he with rfl | he
          · exact hlt
          · exact Nat.lt_trans hlt (hp'.1 e he)
      · rename_i hge
        split
        · split
          · exact hp'.2
          · exact List.pairwise_cons.2 ⟨fun e he => hp'.1 e he, hp'.2⟩
        · rename_i hne
          refine List.pairwise_cons.2 ⟨fun e he => ?_, ih hrest⟩
          rcases Memory.mem_write he with ⟨rfl, _⟩ | he
          · simp only; omega
          · exact hp'.1 e he
  · intro c hc
    rcases Memory.mem_write hc with ⟨rfl, h⟩ | h
    · exact h
    · exact hm.2 c h

/-- The memory after reset has the canonical form. -/
theorem reset_mem_wf : State.reset.mem.WF := by decide

theorem State.setByte_mem_wf {s : State} (h : s.mem.WF) (a : Nat) (w : Byte) : (s.setByte a w).mem.WF :=
  Memory.write_wf h a w

theorem State.byteAt_setByte_same {s : State} (h : s.mem.WF) (a : Nat) (w : Byte) :
    (s.setByte a w).byteAt a = w := Memory.read_write_same h a w

theorem State.byteAt_setByte_other (s : State) {a b : Nat} (w : Byte) (h : b ≠ a) :
    (s.setByte a w).byteAt b = s.byteAt b := Memory.read_write_other s.mem w h

end Sys2Proof.Machine
end

