-- ==== Sys2Proof/Laws/Ops.lean ====
section
/-! SUPPORT. One lemma for each shared operation, saying once what it can do; callers cite these instead of
unfolding the operation. -/

namespace Sys2Proof.Machine

/-! ### Sequencing in `Except` -/

@[simp] theorem except_ok_bind {ε α β : Type} (a : α) (f : α → Except ε β) :
    ((Except.ok a : Except ε α) >>= f) = f a := rfl

@[simp] theorem except_error_bind {ε α β : Type} (e : ε) (f : α → Except ε β) :
    ((Except.error e : Except ε α) >>= f) = Except.error e := rfl

@[simp] theorem except_pure {ε α : Type} (a : α) : (pure a : Except ε α) = Except.ok a := rfl

/-- A sequence that succeeds has a first part that succeeds. -/
theorem except_bind_eq_ok {ε α β : Type} {r : Except ε α} {f : α → Except ε β} {b : β}
    (h : (r >>= f) = .ok b) : ∃ a, r = .ok a ∧ f a = .ok b := by
  cases r with
  | error e => cases h
  | ok a => exact ⟨a, rfl, h⟩

/-- A sequence that faults does so in its first part or after it. -/
theorem except_bind_eq_error {ε α β : Type} {r : Except ε α} {f : α → Except ε β} {e : ε}
    (h : (r >>= f) = .error e) : r = .error e ∨ ∃ a, r = .ok a ∧ f a = .error e := by
  cases r with
  | error e' => exact .inl (by cases h; rfl)
  | ok a => exact .inr ⟨a, rfl, h⟩

/-! ### The end of an instruction -/

@[simp] theorem retire_error (s : State) (f : FaultRecord) : retire s (.error f) = .next (s.takeFault f) := rfl

@[simp] theorem retire_ok (s t : State) (disp : Disposition) :
    retire s (.ok (t, disp)) = .next (t.setPc (nextPc s.pc disp)) := rfl

@[simp] theorem retireCall_error (s : State) (f : FaultRecord) :
    retireCall s (.error f) = .next (s.takeFault f) := rfl

@[simp] theorem retireCall_ok (s t : State) (disp : Disposition) :
    retireCall s (.ok (t, disp)) =
      .next ((t.writeScalar s.cfg.lrIdx (linkValue s.pc)).setPc (nextPc s.pc disp)) := rfl

/-- All that `retire` can answer. -/
theorem retire_cases {s t : State} {r : Except FaultRecord (State × Disposition)} (h : retire s r = .next t) :
    (∃ f, r = .error f ∧ t = s.takeFault f) ∨
      ∃ u disp, r = .ok (u, disp) ∧ t = u.setPc (nextPc s.pc disp) := by
  cases r with
  | error f => exact .inl ⟨f, rfl, by simpa using h.symm⟩
  | ok p => exact .inr ⟨p.1, p.2, rfl, by simpa [retire] using h.symm⟩

/-- All that `retireCall` can answer. -/
theorem retireCall_cases {s t : State} {r : Except FaultRecord (State × Disposition)}
    (h : retireCall s r = .next t) :
    (∃ f, r = .error f ∧ t = s.takeFault f) ∨
      ∃ u disp, r = .ok (u, disp) ∧
        t = (u.writeScalar s.cfg.lrIdx (linkValue s.pc)).setPc (nextPc s.pc disp) := by
  cases r with
  | error f => exact .inl ⟨f, rfl, by simpa using h.symm⟩
  | ok p => exact .inr ⟨p.1, p.2, rfl, by simpa [retireCall] using h.symm⟩

@[simp] theorem nextPc_fallThrough (k : Int) : nextPc k .fallThrough = k + 1 := rfl
@[simp] theorem nextPc_offset (k e : Int) : nextPc k (.offset e) = k + 1 + e := rfl
@[simp] theorem nextPc_absolute (k : Int) (n : Nat) : nextPc k (.absolute n) = (n : Int) := rfl
@[simp] theorem nextPc_wordOffset (k : Int) (imm : Raw16) : nextPc k (wordOffset imm) = k + 1 + s16 imm := rfl
@[simp] theorem nextPc_registerTarget (k : Int) (a : Raw16) :
    nextPc k (registerTarget a) = (byteToWordIndex a : Int) := rfl

/-! ### Register checks and reads -/

theorem State.checkScalar_ok {s : State} {i : SIdx} (h : s.cfg.NamesScalar i) : s.checkScalar i = .ok () := by
  simp [State.checkScalar, Nat.not_le.2 h.1, h.2]

theorem State.checkScalar_outOfRange {s : State} {i : SIdx} (h : s.cfg.nsreg ≤ i.toNat) :
    s.checkScalar i = .error ⟨.scalarIndexOutOfRange, i.toNat⟩ := by
  simp [State.checkScalar, h]

theorem State.checkScalar_reserved {s : State} (h : s.cfg.pcIdx.toNat < s.cfg.nsreg) :
    s.checkScalar s.cfg.pcIdx = .error ⟨.reservedRegister, s.cfg.pcIdx.toNat⟩ := by
  simp [State.checkScalar, Nat.not_le.2 h]

/-- `checkScalar` succeeds exactly on the indices an operand may name. -/
theorem State.checkScalar_eq_ok_iff {s : State} {i : SIdx} {u : Unit} :
    s.checkScalar i = .ok u ↔ s.cfg.NamesScalar i := by
  unfold State.checkScalar Config.NamesScalar
  split
  · simp; omega
  · split <;> simp_all

theorem State.readScalar_ok {s : State} {i : SIdx} (h : s.ScalarDefined i) : s.readScalar i = .ok (s.scalar i) :=
  if_pos h

theorem State.readScalar_undefined {s : State} {i : SIdx} (h : ¬s.ScalarDefined i) :
    s.readScalar i = .error ⟨.undefinedRead, i.toNat⟩ := if_neg h

theorem State.readScalar_eq_ok_iff {s : State} {i : SIdx} {a : Raw16} :
    s.readScalar i = .ok a ↔ s.ScalarDefined i ∧ a = s.scalar i := by
  by_cases h : s.ScalarDefined i
  · rw [State.readScalar_ok h]
    exact ⟨fun e => ⟨h, (Except.ok.inj e).symm⟩, fun e => by rw [e.2]⟩
  · rw [State.readScalar_undefined h]
    exact ⟨fun e => (by cases e), fun e => absurd e.1 h⟩

theorem State.checkVector_ok {s : State} {j : VIdx} (h : s.cfg.NamesVector j) : s.checkVector j = .ok () := by
  simp [State.checkVector, Nat.not_le.2 h]

theorem State.checkVector_outOfRange {s : State} {j : VIdx} (h : s.cfg.nvreg ≤ j.toNat) :
    s.checkVector j = .error ⟨.vectorIndexOutOfRange, j.toNat⟩ := by
  simp [State.checkVector, h]

theorem State.checkVector_eq_ok_iff {s : State} {j : VIdx} {u : Unit} :
    s.checkVector j = .ok u ↔ s.cfg.NamesVector j := by
  unfold State.checkVector Config.NamesVector
  split
  · simp; omega
  · simp; omega

theorem State.readLane_ok {s : State} {j : VIdx} {k : LaneIdx} (h : s.LaneDefined j k) :
    s.readLane j k = .ok ((s.vector j).get k) := if_pos h

theorem State.readLane_undefined {s : State} {j : VIdx} {k : LaneIdx} (h : ¬s.LaneDefined j k) :
    s.readLane j k = .error ⟨.undefinedRead, 64 + j.toNat⟩ := if_neg h

theorem State.readLane_eq_ok_iff {s : State} {j : VIdx} {k : LaneIdx} {a : Raw16} :
    s.readLane j k = .ok a ↔ s.LaneDefined j k ∧ a = (s.vector j).get k := by
  by_cases h : s.LaneDefined j k
  · rw [State.readLane_ok h]
    exact ⟨fun e => ⟨h, (Except.ok.inj e).symm⟩, fun e => by rw [e.2]⟩
  · rw [State.readLane_undefined h]
    exact ⟨fun e => (by cases e), fun e => absurd e.1 h⟩

/-- A whole-register read succeeds exactly when every lane is defined, and gives the register. -/
theorem State.readVector_eq_ok_iff {s : State} {j : VIdx} {l : Lanes Raw16} :
    s.readVector j = .ok l ↔ (∀ k, s.LaneDefined j k) ∧ l = s.vector j := by
  have four : ∀ k : LaneIdx, k = 0 ∨ k = 1 ∨ k = 2 ∨ k = 3 := by decide
  unfold State.readVector
  by_cases h0 : s.LaneDefined j 0
  · by_cases h1 : s.LaneDefined j 1
    · by_cases h2 : s.LaneDefined j 2
      · by_cases h3 : s.LaneDefined j 3
        · have hall : ∀ k, s.LaneDefined j k := fun k => by
            rcases four k with rfl | rfl | rfl | rfl <;> assumption
          rw [State.readLane_ok h0, State.readLane_ok h1, State.readLane_ok h2, State.readLane_ok h3]
          simp only [except_ok_bind, except_pure, Except.ok.injEq]
          constructor
          · rintro rfl; exact ⟨hall, rfl⟩
          · rintro ⟨_, rfl⟩; rfl
        · rw [State.readLane_ok h0, State.readLane_ok h1, State.readLane_ok h2, State.readLane_undefined h3]
          simp only [except_ok_bind, except_error_bind, reduceCtorEq, false_iff]
          exact fun h => h3 (h.1 3)
      · rw [State.readLane_ok h0, State.readLane_ok h1, State.readLane_undefined h2]
        simp only [except_ok_bind, except_error_bind, reduceCtorEq, false_iff]
        exact fun h => h2 (h.1 2)
    · rw [State.readLane_ok h0, State.readLane_undefined h1]
      simp only [except_ok_bind, except_error_bind, reduceCtorEq, false_iff]
      exact fun h => h1 (h.1 1)
  · rw [State.readLane_undefined h0]
    simp only [except_error_bind, reduceCtorEq, false_iff]
    exact fun h => h0 (h.1 0)

theorem State.readVector_ok {s : State} {j : VIdx} (h : ∀ k, s.LaneDefined j k) :
    s.readVector j = .ok (s.vector j) := State.readVector_eq_ok_iff.2 ⟨h, rfl⟩

/-- A whole-register read that faults names the register. -/
theorem State.readVector_undefined {s : State} {j : VIdx} (h : ¬∀ k, s.LaneDefined j k) :
    s.readVector j = .error ⟨.undefinedRead, 64 + j.toNat⟩ := by
  cases hr : s.readVector j with
  | ok l => exact absurd (State.readVector_eq_ok_iff.1 hr).1 h
  | error e =>
    have lane : ∀ k e, s.readLane j k = .error e → e = ⟨.undefinedRead, 64 + j.toNat⟩ := by
      intro k e he
      unfold State.readLane at he
      split at he <;> simp_all
    unfold State.readVector at hr
    rcases except_bind_eq_error hr with h0 | ⟨_, _, hr⟩
    · rw [lane _ _ h0]
    rcases except_bind_eq_error hr with h0 | ⟨_, _, hr⟩
    · rw [lane _ _ h0]
    rcases except_bind_eq_error hr with h0 | ⟨_, _, hr⟩
    · rw [lane _ _ h0]
    rcases except_bind_eq_error hr with h0 | ⟨_, _, hr⟩
    · rw [lane _ _ h0]
    · cases hr

theorem State.readCC_ok {s : State} (h : s.CCDefined) : s.readCC = .ok s.cc := if_pos h

theorem State.readCC_undefined {s : State} (h : ¬s.CCDefined) : s.readCC = .error ⟨.undefinedRead, 128⟩ := if_neg h

theorem State.checkNotLink_ok {s : State} {i : SIdx} (h : i ≠ s.cfg.lrIdx) : s.checkNotLink i = .ok () := if_neg h

theorem State.checkNotLink_link (s : State) :
    s.checkNotLink s.cfg.lrIdx = .error ⟨.unpredictableOperand, s.cfg.lrIdx.toNat⟩ := if_pos rfl

/-! ### What a register reads after a write -/

@[simp] theorem State.scalar_writeScalar_same (s : State) (i : SIdx) (val : Raw16) :
    (s.writeScalar i val).scalar i = val := by simp [State.scalar]

theorem State.scalar_writeScalar_other (s : State) {i i' : SIdx} (val : Raw16) (h : i' ≠ i) :
    (s.writeScalar i val).scalar i' = s.scalar i' := by
  have : i.toNat ≠ i'.toNat := fun e => h (BitVec.eq_of_toNat_eq e.symm)
  simp [State.scalar, Vector.getElem_set_ne, this]

@[simp] theorem State.scalarWritten_writeScalar_same (s : State) (i : SIdx) (val : Raw16) :
    (s.writeScalar i val).scalarWritten i = true := by simp [State.scalarWritten]

theorem State.scalarWritten_writeScalar_other (s : State) {i i' : SIdx} (val : Raw16) (h : i' ≠ i) :
    (s.writeScalar i val).scalarWritten i' = s.scalarWritten i' := by
  have : i.toNat ≠ i'.toNat := fun e => h (BitVec.eq_of_toNat_eq e.symm)
  simp [State.scalarWritten, Vector.getElem_set_ne, this]

@[simp] theorem State.vector_writeVector_same (s : State) (j : VIdx) (l : Lanes Raw16) :
    (s.writeVector j l).vector j = l := by simp [State.vector]

theorem State.vector_writeVector_other (s : State) {j j' : VIdx} (l : Lanes Raw16) (h : j' ≠ j) :
    (s.writeVector j l).vector j' = s.vector j' := by
  have : j.toNat ≠ j'.toNat := fun e => h (BitVec.eq_of_toNat_eq e.symm)
  simp [State.vector, Vector.getElem_set_ne, this]

@[simp] theorem State.vectorWritten_writeVector_same (s : State) (j : VIdx) (l : Lanes Raw16) :
    (s.writeVector j l).vectorWritten j = Lanes.all true := by simp [State.vectorWritten]

theorem State.vectorWritten_writeVector_other (s : State) {j j' : VIdx} (l : Lanes Raw16) (h : j' ≠ j) :
    (s.writeVector j l).vectorWritten j' = s.vectorWritten j' := by
  have : j.toNat ≠ j'.toNat := fun e => h (BitVec.eq_of_toNat_eq e.symm)
  simp [State.vectorWritten, Vector.getElem_set_ne, this]

@[simp] theorem State.vector_writeLane_same (s : State) (j : VIdx) (k : LaneIdx) (val : Raw16) :
    (s.writeLane j k val).vector j = (s.vector j).set k val := by simp [State.vector]

theorem State.vector_writeLane_other (s : State) {j j' : VIdx} (k : LaneIdx) (val : Raw16) (h : j' ≠ j) :
    (s.writeLane j k val).vector j' = s.vector j' := by
  have : j.toNat ≠ j'.toNat := fun e => h (BitVec.eq_of_toNat_eq e.symm)
  simp [State.vector, Vector.getElem_set_ne, this]

@[simp] theorem State.vectorWritten_writeLane_same (s : State) (j : VIdx) (k : LaneIdx) (val : Raw16) :
    (s.writeLane j k val).vectorWritten j = (s.vectorWritten j).set k true := by simp [State.vectorWritten]

theorem State.vectorWritten_writeLane_other (s : State) {j j' : VIdx} (k : LaneIdx) (val : Raw16) (h : j' ≠ j) :
    (s.writeLane j k val).vectorWritten j' = s.vectorWritten j' := by
  have : j.toNat ≠ j'.toNat := fun e => h (BitVec.eq_of_toNat_eq e.symm)
  simp [State.vectorWritten, Vector.getElem_set_ne, this]

@[simp] theorem Lanes.get_set_same {α : Type} (l : Lanes α) (k : LaneIdx) (a : α) : (l.set k a).get k = a := by
  unfold Lanes.set Lanes.get
  split
  · rfl
  · split
    · rfl
    · split <;> rfl

theorem Lanes.get_set_other {α : Type} (l : Lanes α) {k k' : LaneIdx} (a : α) (h : k' ≠ k) :
    (l.set k a).get k' = l.get k' := by
  have four : ∀ k : LaneIdx, k = 0 ∨ k = 1 ∨ k = 2 ∨ k = 3 := by decide
  rcases four k with rfl | rfl | rfl | rfl <;> rcases four k' with rfl | rfl | rfl | rfl <;>
    first
    | exact absurd rfl h
    | rfl

@[simp] theorem Lanes.get_all {α : Type} (a : α) (k : LaneIdx) : (Lanes.all a).get k = a := by
  simp [Lanes.all, Lanes.get]

@[simp] theorem Lanes.get_map₂ {α : Type} (f : α → α → α) (a b : Lanes α) (k : LaneIdx) :
    (Lanes.map₂ f a b).get k = f (a.get k) (b.get k) := by
  unfold Lanes.map₂ Lanes.get
  split
  · rfl
  · split
    · rfl
    · split <;> rfl

@[simp] theorem State.vertex_writeVertex_same (s : State) (n : Fin 3) (w : Vertex) :
    (s.writeVertex n w).vertex n = w := by simp [State.vertex]

theorem State.vertex_writeVertex_other (s : State) {n n' : Fin 3} (w : Vertex) (h : n' ≠ n) :
    (s.writeVertex n w).vertex n' = s.vertex n' := by
  have : n.val ≠ n'.val := fun e => h (Fin.ext e.symm)
  simp [State.vertex, Vector.getElem_set_ne, this]

@[simp] theorem State.vertex_mapVertices (s : State) (f : Vertex → Vertex) (n : Fin 3) :
    (s.mapVertices f).vertex n = f (s.vertex n) := by
  match n with
  | 0 => rfl
  | 1 => rfl
  | 2 => rfl

/-! ### Memory accesses -/

theorem State.checkRange_ok {s : State} {ea : Int} {n : Nat} (h : s.InMemory ea n) : s.checkRange ea n = .ok () :=
  if_pos h

theorem State.checkRange_outOfRange {s : State} {ea : Int} {n : Nat} (h : ¬s.InMemory ea n) :
    s.checkRange ea n = .error ⟨.memOutOfRange, ea⟩ := if_neg h

theorem State.memRead1_ok {s : State} {ea : Int} (h : s.InMemory ea 1) :
    s.memRead1 ea = .ok (s.byteAt ea.toNat) := by simp [State.memRead1, State.checkRange_ok h]

theorem State.memRead2_ok {s : State} {ea : Int} (h : s.InMemory ea 2) :
    s.memRead2 ea = .ok (joinBytes (s.byteAt (ea.toNat + 1)) (s.byteAt ea.toNat)) := by
  simp [State.memRead2, State.checkRange_ok h]

theorem State.memWrite1_ok {s : State} {ea : Int} {w : Byte} (h : s.InMemory ea 1) :
    s.memWrite1 ea w = .ok (s.setByte ea.toNat w) := by simp [State.memWrite1, State.checkRange_ok h]

theorem State.memWrite2_ok {s : State} {ea : Int} {val : Raw16} (h : s.InMemory ea 2) :
    s.memWrite2 ea val =
      .ok ((s.setByte ea.toNat (lowByte val)).setByte (ea.toNat + 1) (highByte val)) := by
  simp [State.memWrite2, State.checkRange_ok h]

theorem State.memRead1_outOfRange {s : State} {ea : Int} (h : ¬s.InMemory ea 1) :
    s.memRead1 ea = .error ⟨.memOutOfRange, ea⟩ := by simp [State.memRead1, State.checkRange_outOfRange h]

theorem State.memRead2_outOfRange {s : State} {ea : Int} (h : ¬s.InMemory ea 2) :
    s.memRead2 ea = .error ⟨.memOutOfRange, ea⟩ := by simp [State.memRead2, State.checkRange_outOfRange h]

theorem State.memWrite1_outOfRange {s : State} {ea : Int} {w : Byte} (h : ¬s.InMemory ea 1) :
    s.memWrite1 ea w = .error ⟨.memOutOfRange, ea⟩ := by simp [State.memWrite1, State.checkRange_outOfRange h]

theorem State.memWrite2_outOfRange {s : State} {ea : Int} {val : Raw16} (h : ¬s.InMemory ea 2) :
    s.memWrite2 ea val = .error ⟨.memOutOfRange, ea⟩ := by simp [State.memWrite2, State.checkRange_outOfRange h]

/-- All a one-byte store can do: in range, the byte is stored. -/
theorem State.memWrite1_eq_ok {s t : State} {ea : Int} {w : Byte} (h : s.memWrite1 ea w = .ok t) :
    s.InMemory ea 1 ∧ t = s.setByte ea.toNat w := by
  by_cases hr : s.InMemory ea 1
  · rw [State.memWrite1_ok hr] at h
    exact ⟨hr, by simpa using h.symm⟩
  · rw [State.memWrite1_outOfRange hr] at h
    cases h

/-- All a two-byte store can do: in range, both bytes are stored. -/
theorem State.memWrite2_eq_ok {s t : State} {ea : Int} {val : Raw16} (h : s.memWrite2 ea val = .ok t) :
    s.InMemory ea 2 ∧
      t = (s.setByte ea.toNat (lowByte val)).setByte (ea.toNat + 1) (highByte val) := by
  by_cases hr : s.InMemory ea 2
  · rw [State.memWrite2_ok hr] at h
    exact ⟨hr, by simpa using h.symm⟩
  · rw [State.memWrite2_outOfRange hr] at h
    cases h

/-- A one-byte store keeps the canonical form of the memory. -/
theorem State.memWrite1_mem_wf {s t : State} {ea : Int} {w : Byte} (hs : s.mem.WF)
    (h : s.memWrite1 ea w = .ok t) : t.mem.WF := by
  rw [(State.memWrite1_eq_ok h).2]
  exact State.setByte_mem_wf hs _ _

/-- A two-byte store keeps the canonical form of the memory. -/
theorem State.memWrite2_mem_wf {s t : State} {ea : Int} {val : Raw16} (hs : s.mem.WF)
    (h : s.memWrite2 ea val = .ok t) : t.mem.WF := by
  rw [(State.memWrite2_eq_ok h).2]
  exact State.setByte_mem_wf (State.setByte_mem_wf hs _ _) _ _

/-! ### The shared forms of the instructions -/

/-- The three-register form, when its operands can be read. -/
theorem aluRegister_ok {f : Raw16 → Raw16 → Raw16} {d s1 s2 : SIdx} {s : State} (hd : s.cfg.NamesScalar d)
    (h1 : s.cfg.NamesScalar s1) (h2 : s.cfg.NamesScalar s2) (r1 : s.ScalarDefined s1) (r2 : s.ScalarDefined s2) :
    aluRegister f d s1 s2 s =
      .next (((s.writeScalar d (f (s.scalar s1) (s.scalar s2))).setCCResult
        (f (s.scalar s1) (s.scalar s2))).setPc (s.pc + 1)) := by
  simp [aluRegister, State.checkScalar_ok hd, State.checkScalar_ok h1, State.checkScalar_ok h2,
    State.readScalar_ok r1, State.readScalar_ok r2]

/-- All the three-register form can do. -/
theorem aluRegister_cases {f : Raw16 → Raw16 → Raw16} {d s1 s2 : SIdx} {s t : State}
    (h : aluRegister f d s1 s2 s = .next t) :
    (∃ e, t = s.takeFault e) ∨
      t = ((s.writeScalar d (f (s.scalar s1) (s.scalar s2))).setCCResult
        (f (s.scalar s1) (s.scalar s2))).setPc (s.pc + 1) := by
  rcases retire_cases h with ⟨e, _, rfl⟩ | ⟨u, disp, hr, rfl⟩
  · exact .inl ⟨e, rfl⟩
  · obtain ⟨_, _, hr⟩ := except_bind_eq_ok hr
    obtain ⟨_, _, hr⟩ := except_bind_eq_ok hr
    obtain ⟨_, _, hr⟩ := except_bind_eq_ok hr
    obtain ⟨a, ha, hr⟩ := except_bind_eq_ok hr
    obtain ⟨b, hb, hr⟩ := except_bind_eq_ok hr
    rw [(State.readScalar_eq_ok_iff.1 ha).2, (State.readScalar_eq_ok_iff.1 hb).2] at hr
    cases hr
    exact .inr rfl

/-- The immediate form, when its operand can be read. -/
theorem aluImmediate_ok {f : Raw16 → Raw16 → Raw16} {d s1 : SIdx} {imm : Raw16} {s : State}
    (hd : s.cfg.NamesScalar d) (h1 : s.cfg.NamesScalar s1) (r1 : s.ScalarDefined s1) :
    aluImmediate f d s1 imm s =
      .next (((s.writeScalar d (f (s.scalar s1) imm)).setCCResult (f (s.scalar s1) imm)).setPc (s.pc + 1)) := by
  simp [aluImmediate, State.checkScalar_ok hd, State.checkScalar_ok h1, State.readScalar_ok r1]

/-- All the immediate form can do. -/
theorem aluImmediate_cases {f : Raw16 → Raw16 → Raw16} {d s1 : SIdx} {imm : Raw16} {s t : State}
    (h : aluImmediate f d s1 imm s = .next t) :
    (∃ e, t = s.takeFault e) ∨
      t = ((s.writeScalar d (f (s.scalar s1) imm)).setCCResult (f (s.scalar s1) imm)).setPc (s.pc + 1) := by
  rcases retire_cases h with ⟨e, _, rfl⟩ | ⟨u, disp, hr, rfl⟩
  · exact .inl ⟨e, rfl⟩
  · obtain ⟨_, _, hr⟩ := except_bind_eq_ok hr
    obtain ⟨_, _, hr⟩ := except_bind_eq_ok hr
    obtain ⟨a, ha, hr⟩ := except_bind_eq_ok hr
    rw [(State.readScalar_eq_ok_iff.1 ha).2] at hr
    cases hr
    exact .inr rfl

/-- All the immediate move can do. -/
theorem moveImmediate_cases {md : SIdx} {imm : Raw16} {s t : State} (h : moveImmediate md imm s = .next t) :
    (∃ e, t = s.takeFault e) ∨ t = ((s.writeScalar md imm).setCCResult imm).setPc (s.pc + 1) := by
  rcases retire_cases h with ⟨e, _, rfl⟩ | ⟨u, disp, hr, rfl⟩
  · exact .inl ⟨e, rfl⟩
  · obtain ⟨_, _, hr⟩ := except_bind_eq_ok hr
    cases hr
    exact .inr rfl

/-- The tested branch, when `cc` can be read. -/
theorem branchOn_ok {T : List CC} {imm : Raw16} {s : State} (h : s.CCDefined) :
    branchOn T imm s = .next (s.setPc (if s.cc ∈ T then s.pc + 1 + s16 imm else s.pc + 1)) := by
  by_cases hc : s.cc ∈ T <;> simp [branchOn, State.readCC_ok h, hc]

/-- All the tested branch can do. -/
theorem branchOn_cases {T : List CC} {imm : Raw16} {s t : State} (h : branchOn T imm s = .next t) :
    (∃ e, t = s.takeFault e) ∨ ∃ n, t = s.setPc n ∧ (n = s.pc + 1 + s16 imm ∨ n = s.pc + 1) := by
  by_cases hd : s.CCDefined
  · rw [branchOn_ok hd] at h
    cases h
    refine .inr ⟨_, rfl, ?_⟩
    split <;> simp
  · simp only [branchOn, State.readCC_undefined hd, except_error_bind, retire_error] at h
    cases h
    exact .inl ⟨_, rfl⟩

end Sys2Proof.Machine
end

