-- ==== Sys2Proof/Laws/Exec.lean ====
section
/-! SUPPORT. For each instruction that checks its operands: the state it reaches when its checks pass, and that
a next state is that one or a recorded fault. The instructions with no check reach theirs by definition, and the
tested branches are `branchOn` (Sys2Proof/Laws/Ops.lean). -/

namespace Sys2Proof.Machine

variable {s t : State}

theorem moveImmediate_ok {md : SIdx} {imm : Raw16} (hd : s.cfg.NamesScalar md) :
    moveImmediate md imm s = .next (((s.writeScalar md imm).setCCResult imm).setPc (s.pc + 1)) := by
  simp [moveImmediate, State.checkScalar_ok hd]

theorem execAddD_ok {d s1 s2 : SIdx} (hd : s.cfg.NamesScalar d) (h1 : s.cfg.NamesScalar s1)
    (h2 : s.cfg.NamesScalar s2) (r1 : s.ScalarDefined s1) (r2 : s.ScalarDefined s2) :
    execAddD d s1 s2 s = .next (((s.writeScalar d (add16 (s.scalar s1) (s.scalar s2))).setCCResult
        (add16 (s.scalar s1) (s.scalar s2))).setPc (s.pc + 1)) :=
  aluRegister_ok hd h1 h2 r1 r2

theorem execAddD_cases {d s1 s2 : SIdx} (h : execAddD d s1 s2 s = .next t) :
    (∃ f, t = s.takeFault f) ∨ t = ((s.writeScalar d (add16 (s.scalar s1) (s.scalar s2))).setCCResult
        (add16 (s.scalar s1) (s.scalar s2))).setPc (s.pc + 1) :=
  aluRegister_cases h

theorem execAddF_ok {d s1 s2 : SIdx} (hd : s.cfg.NamesScalar d) (h1 : s.cfg.NamesScalar s1)
    (h2 : s.cfg.NamesScalar s2) (r1 : s.ScalarDefined s1) (r2 : s.ScalarDefined s2) :
    execAddF d s1 s2 s = .next (((s.writeScalar d (add16 (s.scalar s1) (s.scalar s2))).setCCResult
        (add16 (s.scalar s1) (s.scalar s2))).setPc (s.pc + 1)) :=
  aluRegister_ok hd h1 h2 r1 r2

theorem execAddF_cases {d s1 s2 : SIdx} (h : execAddF d s1 s2 s = .next t) :
    (∃ f, t = s.takeFault f) ∨ t = ((s.writeScalar d (add16 (s.scalar s1) (s.scalar s2))).setCCResult
        (add16 (s.scalar s1) (s.scalar s2))).setPc (s.pc + 1) :=
  aluRegister_cases h

theorem execAndD_ok {d s1 s2 : SIdx} (hd : s.cfg.NamesScalar d) (h1 : s.cfg.NamesScalar s1)
    (h2 : s.cfg.NamesScalar s2) (r1 : s.ScalarDefined s1) (r2 : s.ScalarDefined s2) :
    execAndD d s1 s2 s = .next (((s.writeScalar d (s.scalar s1 &&& s.scalar s2)).setCCResult
        (s.scalar s1 &&& s.scalar s2)).setPc (s.pc + 1)) :=
  aluRegister_ok hd h1 h2 r1 r2

theorem execAndD_cases {d s1 s2 : SIdx} (h : execAndD d s1 s2 s = .next t) :
    (∃ f, t = s.takeFault f) ∨ t = ((s.writeScalar d (s.scalar s1 &&& s.scalar s2)).setCCResult
        (s.scalar s1 &&& s.scalar s2)).setPc (s.pc + 1) :=
  aluRegister_cases h

theorem execAddiD_ok {d s1 : SIdx} {imm : Raw16} (hd : s.cfg.NamesScalar d) (h1 : s.cfg.NamesScalar s1)
    (r1 : s.ScalarDefined s1) :
    execAddiD d s1 imm s = .next (((s.writeScalar d (addImm16 (s.scalar s1) imm)).setCCResult
        (addImm16 (s.scalar s1) imm)).setPc (s.pc + 1)) :=
  aluImmediate_ok hd h1 r1

theorem execAddiD_cases {d s1 : SIdx} {imm : Raw16} (h : execAddiD d s1 imm s = .next t) :
    (∃ f, t = s.takeFault f) ∨ t = ((s.writeScalar d (addImm16 (s.scalar s1) imm)).setCCResult
        (addImm16 (s.scalar s1) imm)).setPc (s.pc + 1) :=
  aluImmediate_cases h

theorem execAddiF_ok {d s1 : SIdx} {imm : Raw16} (hd : s.cfg.NamesScalar d) (h1 : s.cfg.NamesScalar s1)
    (r1 : s.ScalarDefined s1) :
    execAddiF d s1 imm s = .next (((s.writeScalar d (addImm16 (s.scalar s1) imm)).setCCResult
        (addImm16 (s.scalar s1) imm)).setPc (s.pc + 1)) :=
  aluImmediate_ok hd h1 r1

theorem execAddiF_cases {d s1 : SIdx} {imm : Raw16} (h : execAddiF d s1 imm s = .next t) :
    (∃ f, t = s.takeFault f) ∨ t = ((s.writeScalar d (addImm16 (s.scalar s1) imm)).setCCResult
        (addImm16 (s.scalar s1) imm)).setPc (s.pc + 1) :=
  aluImmediate_cases h

theorem execAndiD_ok {d s1 : SIdx} {imm : Raw16} (hd : s.cfg.NamesScalar d) (h1 : s.cfg.NamesScalar s1)
    (r1 : s.ScalarDefined s1) :
    execAndiD d s1 imm s = .next (((s.writeScalar d (s.scalar s1 &&& imm)).setCCResult
        (s.scalar s1 &&& imm)).setPc (s.pc + 1)) :=
  aluImmediate_ok hd h1 r1

theorem execAndiD_cases {d s1 : SIdx} {imm : Raw16} (h : execAndiD d s1 imm s = .next t) :
    (∃ f, t = s.takeFault f) ∨ t = ((s.writeScalar d (s.scalar s1 &&& imm)).setCCResult
        (s.scalar s1 &&& imm)).setPc (s.pc + 1) :=
  aluImmediate_cases h

theorem execMov_ok {md ms : SIdx} (h1 : s.cfg.NamesScalar md) (h2 : s.cfg.NamesScalar ms)
    (h3 : s.ScalarDefined ms) :
    execMov md ms s = .next (((s.writeScalar md (s.scalar ms)).setCCResult (s.scalar ms)).setPc (s.pc + 1)) := by
  simp only [execMov, State.checkScalar_ok h1, State.checkScalar_ok h2, State.readScalar_ok h3, except_ok_bind,
      except_pure, retire_ok, nextPc_fallThrough]

theorem execMov_cases {md ms : SIdx} (h : execMov md ms s = .next t) :
    (∃ f, t = s.takeFault f) ∨ t = ((s.writeScalar md (s.scalar ms)).setCCResult (s.scalar ms)).setPc
        (s.pc + 1) := by
  rcases retire_cases h with ⟨e, _, rfl⟩ | ⟨u, disp, hr, rfl⟩
  · exact .inl ⟨e, rfl⟩
  · obtain ⟨_, _, hr⟩ := except_bind_eq_ok hr
    obtain ⟨_, _, hr⟩ := except_bind_eq_ok hr
    obtain ⟨a, ha, hr⟩ := except_bind_eq_ok hr
    obtain ⟨_, rfl⟩ := State.readScalar_eq_ok_iff.1 ha
    cases hr
    exact .inr rfl

theorem execMoviD_ok {md : SIdx} {imm : Raw16} (hd : s.cfg.NamesScalar md) :
    execMoviD md imm s = .next (((s.writeScalar md imm).setCCResult imm).setPc (s.pc + 1)) :=
  moveImmediate_ok hd

theorem execMoviD_cases {md : SIdx} {imm : Raw16} (h : execMoviD md imm s = .next t) :
    (∃ f, t = s.takeFault f) ∨ t = ((s.writeScalar md imm).setCCResult imm).setPc (s.pc + 1) :=
  moveImmediate_cases h

theorem execMoviF_ok {md : SIdx} {imm : Raw16} (hd : s.cfg.NamesScalar md) :
    execMoviF md imm s = .next (((s.writeScalar md imm).setCCResult imm).setPc (s.pc + 1)) :=
  moveImmediate_ok hd

theorem execMoviF_cases {md : SIdx} {imm : Raw16} (h : execMoviF md imm s = .next t) :
    (∃ f, t = s.takeFault f) ∨ t = ((s.writeScalar md imm).setCCResult imm).setPc (s.pc + 1) :=
  moveImmediate_cases h

theorem execCmp_ok {s1 s2 : SIdx} (h1 : s.cfg.NamesScalar s1) (h2 : s.cfg.NamesScalar s2)
    (h3 : s.ScalarDefined s1) (h4 : s.ScalarDefined s2) :
    execCmp s1 s2 s = .next ((s.setCC (s16 (s.scalar s1)) (s16 (s.scalar s2))).setPc (s.pc + 1)) := by
  simp only [execCmp, State.checkScalar_ok h1, State.checkScalar_ok h2, State.readScalar_ok h3,
      State.readScalar_ok h4, except_ok_bind, except_pure, retire_ok, nextPc_fallThrough]

theorem execCmp_cases {s1 s2 : SIdx} (h : execCmp s1 s2 s = .next t) :
    (∃ f, t = s.takeFault f) ∨ t = (s.setCC (s16 (s.scalar s1)) (s16 (s.scalar s2))).setPc (s.pc + 1) := by
  rcases retire_cases h with ⟨e, _, rfl⟩ | ⟨u, disp, hr, rfl⟩
  · exact .inl ⟨e, rfl⟩
  · obtain ⟨_, _, hr⟩ := except_bind_eq_ok hr
    obtain ⟨_, _, hr⟩ := except_bind_eq_ok hr
    obtain ⟨a, ha, hr⟩ := except_bind_eq_ok hr
    obtain ⟨_, rfl⟩ := State.readScalar_eq_ok_iff.1 ha
    obtain ⟨b, hb, hr⟩ := except_bind_eq_ok hr
    obtain ⟨_, rfl⟩ := State.readScalar_eq_ok_iff.1 hb
    cases hr
    exact .inr rfl

theorem execCmpi_ok {s1 : SIdx} {imm : Raw16} (h1 : s.cfg.NamesScalar s1) (h2 : s.ScalarDefined s1) :
    execCmpi s1 imm s = .next ((s.setCC (s16 (s.scalar s1)) (s16 imm)).setPc (s.pc + 1)) := by
  simp only [execCmpi, State.checkScalar_ok h1, State.readScalar_ok h2, except_ok_bind, except_pure, retire_ok,
      nextPc_fallThrough]

theorem execCmpi_cases {s1 : SIdx} {imm : Raw16} (h : execCmpi s1 imm s = .next t) :
    (∃ f, t = s.takeFault f) ∨ t = (s.setCC (s16 (s.scalar s1)) (s16 imm)).setPc (s.pc + 1) := by
  rcases retire_cases h with ⟨e, _, rfl⟩ | ⟨u, disp, hr, rfl⟩
  · exact .inl ⟨e, rfl⟩
  · obtain ⟨_, _, hr⟩ := except_bind_eq_ok hr
    obtain ⟨a, ha, hr⟩ := except_bind_eq_ok hr
    obtain ⟨_, rfl⟩ := State.readScalar_eq_ok_iff.1 ha
    cases hr
    exact .inr rfl

theorem execVadd_ok {vd vs1 vs2 : VIdx} (h1 : s.cfg.NamesVector vd) (h2 : s.cfg.NamesVector vs1)
    (h3 : s.cfg.NamesVector vs2) (h4 : ∀ k, s.LaneDefined vs1 k) (h5 : ∀ k, s.LaneDefined vs2 k) :
    execVadd vd vs1 vs2 s = .next ((s.writeVector vd (Lanes.map₂ add16 (s.vector vs1) (s.vector vs2))).setPc
        (s.pc + 1)) := by
  simp only [execVadd, State.checkVector_ok h1, State.checkVector_ok h2, State.checkVector_ok h3,
      State.readVector_ok h4, State.readVector_ok h5, except_ok_bind, except_pure, retire_ok, nextPc_fallThrough]

theorem execVadd_cases {vd vs1 vs2 : VIdx} (h : execVadd vd vs1 vs2 s = .next t) :
    (∃ f, t = s.takeFault f) ∨ t = (s.writeVector vd (Lanes.map₂ add16 (s.vector vs1) (s.vector vs2))).setPc
        (s.pc + 1) := by
  rcases retire_cases h with ⟨e, _, rfl⟩ | ⟨u, disp, hr, rfl⟩
  · exact .inl ⟨e, rfl⟩
  · obtain ⟨_, _, hr⟩ := except_bind_eq_ok hr
    obtain ⟨_, _, hr⟩ := except_bind_eq_ok hr
    obtain ⟨_, _, hr⟩ := except_bind_eq_ok hr
    obtain ⟨a, ha, hr⟩ := except_bind_eq_ok hr
    obtain ⟨_, rfl⟩ := State.readVector_eq_ok_iff.1 ha
    obtain ⟨b, hb, hr⟩ := except_bind_eq_ok hr
    obtain ⟨_, rfl⟩ := State.readVector_eq_ok_iff.1 hb
    cases hr
    exact .inr rfl

theorem execVmov_ok {vd vs1 : VIdx} (h1 : s.cfg.NamesVector vd) (h2 : s.cfg.NamesVector vs1)
    (h3 : ∀ k, s.LaneDefined vs1 k) :
    execVmov vd vs1 s = .next ((s.writeVector vd (s.vector vs1)).setPc (s.pc + 1)) := by
  simp only [execVmov, State.checkVector_ok h1, State.checkVector_ok h2, State.readVector_ok h3, except_ok_bind,
      except_pure, retire_ok, nextPc_fallThrough]

theorem execVmov_cases {vd vs1 : VIdx} (h : execVmov vd vs1 s = .next t) :
    (∃ f, t = s.takeFault f) ∨ t = (s.writeVector vd (s.vector vs1)).setPc (s.pc + 1) := by
  rcases retire_cases h with ⟨e, _, rfl⟩ | ⟨u, disp, hr, rfl⟩
  · exact .inl ⟨e, rfl⟩
  · obtain ⟨_, _, hr⟩ := except_bind_eq_ok hr
    obtain ⟨_, _, hr⟩ := except_bind_eq_ok hr
    obtain ⟨a, ha, hr⟩ := except_bind_eq_ok hr
    obtain ⟨_, rfl⟩ := State.readVector_eq_ok_iff.1 ha
    cases hr
    exact .inr rfl

theorem execVmovi_ok {vd : VIdx} {imm : Raw16} (h1 : s.cfg.NamesVector vd) :
    execVmovi vd imm s = .next ((s.writeVector vd (Lanes.all imm)).setPc (s.pc + 1)) := by
  simp only [execVmovi, State.checkVector_ok h1, except_ok_bind, except_pure, retire_ok, nextPc_fallThrough]

theorem execVmovi_cases {vd : VIdx} {imm : Raw16} (h : execVmovi vd imm s = .next t) :
    (∃ f, t = s.takeFault f) ∨ t = (s.writeVector vd (Lanes.all imm)).setPc (s.pc + 1) := by
  rcases retire_cases h with ⟨e, _, rfl⟩ | ⟨u, disp, hr, rfl⟩
  · exact .inl ⟨e, rfl⟩
  · obtain ⟨_, _, hr⟩ := except_bind_eq_ok hr
    cases hr
    exact .inr rfl

theorem execVcompmov_ok {lane : LaneIdx} {vd : VIdx} {s2 : SIdx} (h1 : s.cfg.NamesVector vd)
    (h2 : s.cfg.NamesScalar s2) (h3 : s.ScalarDefined s2) :
    execVcompmov lane vd s2 s = .next ((s.writeLane vd lane (s.scalar s2)).setPc (s.pc + 1)) := by
  simp only [execVcompmov, State.checkVector_ok h1, State.checkScalar_ok h2, State.readScalar_ok h3,
      except_ok_bind, except_pure, retire_ok, nextPc_fallThrough]

theorem execVcompmov_cases {lane : LaneIdx} {vd : VIdx} {s2 : SIdx} (h : execVcompmov lane vd s2 s = .next t) :
    (∃ f, t = s.takeFault f) ∨ t = (s.writeLane vd lane (s.scalar s2)).setPc (s.pc + 1) := by
  rcases retire_cases h with ⟨e, _, rfl⟩ | ⟨u, disp, hr, rfl⟩
  · exact .inl ⟨e, rfl⟩
  · obtain ⟨_, _, hr⟩ := except_bind_eq_ok hr
    obtain ⟨_, _, hr⟩ := except_bind_eq_ok hr
    obtain ⟨a, ha, hr⟩ := except_bind_eq_ok hr
    obtain ⟨_, rfl⟩ := State.readScalar_eq_ok_iff.1 ha
    cases hr
    exact .inr rfl

theorem execVcompmovi_ok {lane : LaneIdx} {vd : VIdx} {imm : Raw16} (h1 : s.cfg.NamesVector vd) :
    execVcompmovi lane vd imm s = .next ((s.writeLane vd lane imm).setPc (s.pc + 1)) := by
  simp only [execVcompmovi, State.checkVector_ok h1, except_ok_bind, except_pure, retire_ok, nextPc_fallThrough]

theorem execVcompmovi_cases {lane : LaneIdx} {vd : VIdx} {imm : Raw16} (h : execVcompmovi lane vd imm s = .next t) :
    (∃ f, t = s.takeFault f) ∨ t = (s.writeLane vd lane imm).setPc (s.pc + 1) := by
  rcases retire_cases h with ⟨e, _, rfl⟩ | ⟨u, disp, hr, rfl⟩
  · exact .inl ⟨e, rfl⟩
  · obtain ⟨_, _, hr⟩ := except_bind_eq_ok hr
    cases hr
    exact .inr rfl

theorem execLdb_ok {d s1 : SIdx} {imm : Raw16} (h1 : s.cfg.NamesScalar d) (h2 : s.cfg.NamesScalar s1)
    (h3 : s.ScalarDefined s1) (h4 : s.InMemory (effectiveAddress (s.scalar s1) imm) 1) :
    execLdb d s1 imm s = .next (((s.writeScalar d
        (zext16 (s.byteAt (effectiveAddress (s.scalar s1) imm).toNat))).setCCResult
        (zext16 (s.byteAt (effectiveAddress (s.scalar s1) imm).toNat))).setPc (s.pc + 1)) := by
  simp only [execLdb, State.checkScalar_ok h1, State.checkScalar_ok h2, State.readScalar_ok h3, State.memRead1_ok
      h4, except_ok_bind, except_pure, retire_ok, nextPc_fallThrough]

theorem execLdb_cases {d s1 : SIdx} {imm : Raw16} (h : execLdb d s1 imm s = .next t) :
    (∃ f, t = s.takeFault f) ∨ s.InMemory (effectiveAddress (s.scalar s1) imm) 1 ∧ t =
        ((s.writeScalar d (zext16 (s.byteAt (effectiveAddress (s.scalar s1) imm).toNat))).setCCResult
        (zext16 (s.byteAt (effectiveAddress (s.scalar s1) imm).toNat))).setPc (s.pc + 1) := by
  rcases retire_cases h with ⟨e, _, rfl⟩ | ⟨u, disp, hr, rfl⟩
  · exact .inl ⟨e, rfl⟩
  · obtain ⟨_, _, hr⟩ := except_bind_eq_ok hr
    obtain ⟨_, _, hr⟩ := except_bind_eq_ok hr
    obtain ⟨a, ha, hr⟩ := except_bind_eq_ok hr
    obtain ⟨_, rfl⟩ := State.readScalar_eq_ok_iff.1 ha
    obtain ⟨m, hm, hr⟩ := except_bind_eq_ok hr
    by_cases hin : s.InMemory (effectiveAddress (s.scalar s1) imm) 1
    · rw [State.memRead1_ok hin] at hm
      cases hm
      cases hr
      exact .inr ⟨hin, rfl⟩
    · rw [State.memRead1_outOfRange hin] at hm
      cases hm

theorem execLdw_ok {d s1 : SIdx} {imm : Raw16} (h1 : s.cfg.NamesScalar d) (h2 : s.cfg.NamesScalar s1)
    (h3 : s.ScalarDefined s1) (h4 : s.InMemory (effectiveAddress (s.scalar s1) imm) 2) :
    execLdw d s1 imm s = .next (((s.writeScalar d
        (joinBytes (s.byteAt ((effectiveAddress (s.scalar s1) imm).toNat + 1))
        (s.byteAt (effectiveAddress (s.scalar s1) imm).toNat))).setCCResult
        (joinBytes (s.byteAt ((effectiveAddress (s.scalar s1) imm).toNat + 1))
        (s.byteAt (effectiveAddress (s.scalar s1) imm).toNat))).setPc (s.pc + 1)) := by
  simp only [execLdw, State.checkScalar_ok h1, State.checkScalar_ok h2, State.readScalar_ok h3, State.memRead2_ok
      h4, except_ok_bind, except_pure, retire_ok, nextPc_fallThrough]

theorem execLdw_cases {d s1 : SIdx} {imm : Raw16} (h : execLdw d s1 imm s = .next t) :
    (∃ f, t = s.takeFault f) ∨ s.InMemory (effectiveAddress (s.scalar s1) imm) 2 ∧ t =
        ((s.writeScalar d (joinBytes (s.byteAt ((effectiveAddress (s.scalar s1) imm).toNat + 1))
        (s.byteAt (effectiveAddress (s.scalar s1) imm).toNat))).setCCResult
        (joinBytes (s.byteAt ((effectiveAddress (s.scalar s1) imm).toNat + 1))
        (s.byteAt (effectiveAddress (s.scalar s1) imm).toNat))).setPc (s.pc + 1) := by
  rcases retire_cases h with ⟨e, _, rfl⟩ | ⟨u, disp, hr, rfl⟩
  · exact .inl ⟨e, rfl⟩
  · obtain ⟨_, _, hr⟩ := except_bind_eq_ok hr
    obtain ⟨_, _, hr⟩ := except_bind_eq_ok hr
    obtain ⟨a, ha, hr⟩ := except_bind_eq_ok hr
    obtain ⟨_, rfl⟩ := State.readScalar_eq_ok_iff.1 ha
    obtain ⟨m, hm, hr⟩ := except_bind_eq_ok hr
    by_cases hin : s.InMemory (effectiveAddress (s.scalar s1) imm) 2
    · rw [State.memRead2_ok hin] at hm
      cases hm
      cases hr
      exact .inr ⟨hin, rfl⟩
    · rw [State.memRead2_outOfRange hin] at hm
      cases hm

theorem execStb_ok {d s1 : SIdx} {imm : Raw16} (h1 : s.cfg.NamesScalar d) (h2 : s.cfg.NamesScalar s1)
    (h3 : s.ScalarDefined d) (h4 : s.ScalarDefined s1) (h5 : s.InMemory (effectiveAddress
    (s.scalar s1) imm) 1) :
    execStb d s1 imm s = .next ((s.setByte (effectiveAddress (s.scalar s1) imm).toNat
        (lowByte (s.scalar d))).setPc (s.pc + 1)) := by
  simp only [execStb, State.checkScalar_ok h1, State.checkScalar_ok h2, State.readScalar_ok h3,
      State.readScalar_ok h4, State.memWrite1_ok h5, except_ok_bind, except_pure, retire_ok, nextPc_fallThrough]

theorem execStb_cases {d s1 : SIdx} {imm : Raw16} (h : execStb d s1 imm s = .next t) :
    (∃ f, t = s.takeFault f) ∨ s.InMemory (effectiveAddress (s.scalar s1) imm) 1 ∧ t =
        (s.setByte (effectiveAddress (s.scalar s1) imm).toNat (lowByte (s.scalar d))).setPc (s.pc + 1) := by
  rcases retire_cases h with ⟨e, _, rfl⟩ | ⟨u, disp, hr, rfl⟩
  · exact .inl ⟨e, rfl⟩
  · obtain ⟨_, _, hr⟩ := except_bind_eq_ok hr
    obtain ⟨_, _, hr⟩ := except_bind_eq_ok hr
    obtain ⟨a, ha, hr⟩ := except_bind_eq_ok hr
    obtain ⟨_, rfl⟩ := State.readScalar_eq_ok_iff.1 ha
    obtain ⟨b, hb, hr⟩ := except_bind_eq_ok hr
    obtain ⟨_, rfl⟩ := State.readScalar_eq_ok_iff.1 hb
    obtain ⟨m, hm, hr⟩ := except_bind_eq_ok hr
    obtain ⟨hin, rfl⟩ := State.memWrite1_eq_ok hm
    cases hr
    exact .inr ⟨hin, rfl⟩

theorem execStw_ok {d s1 : SIdx} {imm : Raw16} (h1 : s.cfg.NamesScalar d) (h2 : s.cfg.NamesScalar s1)
    (h3 : s.ScalarDefined d) (h4 : s.ScalarDefined s1) (h5 : s.InMemory (effectiveAddress
    (s.scalar s1) imm) 2) :
    execStw d s1 imm s = .next (((s.setByte (effectiveAddress (s.scalar s1) imm).toNat
        (lowByte (s.scalar d))).setByte ((effectiveAddress (s.scalar s1) imm).toNat + 1)
        (highByte (s.scalar d))).setPc (s.pc + 1)) := by
  simp only [execStw, State.checkScalar_ok h1, State.checkScalar_ok h2, State.readScalar_ok h3,
      State.readScalar_ok h4, State.memWrite2_ok h5, except_ok_bind, except_pure, retire_ok, nextPc_fallThrough]

theorem execStw_cases {d s1 : SIdx} {imm : Raw16} (h : execStw d s1 imm s = .next t) :
    (∃ f, t = s.takeFault f) ∨ s.InMemory (effectiveAddress (s.scalar s1) imm) 2 ∧ t =
        ((s.setByte (effectiveAddress (s.scalar s1) imm).toNat (lowByte (s.scalar d))).setByte
        ((effectiveAddress (s.scalar s1) imm).toNat + 1) (highByte (s.scalar d))).setPc (s.pc + 1) := by
  rcases retire_cases h with ⟨e, _, rfl⟩ | ⟨u, disp, hr, rfl⟩
  · exact .inl ⟨e, rfl⟩
  · obtain ⟨_, _, hr⟩ := except_bind_eq_ok hr
    obtain ⟨_, _, hr⟩ := except_bind_eq_ok hr
    obtain ⟨a, ha, hr⟩ := except_bind_eq_ok hr
    obtain ⟨_, rfl⟩ := State.readScalar_eq_ok_iff.1 ha
    obtain ⟨b, hb, hr⟩ := except_bind_eq_ok hr
    obtain ⟨_, rfl⟩ := State.readScalar_eq_ok_iff.1 hb
    obtain ⟨m, hm, hr⟩ := except_bind_eq_ok hr
    obtain ⟨hin, rfl⟩ := State.memWrite2_eq_ok hm
    cases hr
    exact .inr ⟨hin, rfl⟩

theorem execSetvertex_ok {vd : VIdx} (h1 : s.cfg.NamesVector vd) (h2 : s.LaneDefined vd 1)
    (h3 : s.LaneDefined vd 2) (h4 : s.LaneDefined vd 3) :
    execSetvertex vd s = .next (((s.writeVertex s.cur
        { s.vertex s.cur with x := (shr4 ((s.vector vd).get 1)), y := (shr4 ((s.vector vd).get 2)), z := (shr4 ((s.vector vd).get 3)) }).setCur (s.cur + 1)).setPc (s.pc + 1)) := by
  simp only [execSetvertex, State.checkVector_ok h1, State.readLane_ok h2, State.readLane_ok h3, State.readLane_ok
      h4, except_ok_bind, except_pure, retire_ok, nextPc_fallThrough]

theorem execSetvertex_cases {vd : VIdx} (h : execSetvertex vd s = .next t) :
    (∃ f, t = s.takeFault f) ∨ t = ((s.writeVertex s.cur
        { s.vertex s.cur with x := (shr4 ((s.vector vd).get 1)), y := (shr4 ((s.vector vd).get 2)), z := (shr4 ((s.vector vd).get 3)) }).setCur (s.cur + 1)).setPc (s.pc + 1) := by
  rcases retire_cases h with ⟨e, _, rfl⟩ | ⟨u, disp, hr, rfl⟩
  · exact .inl ⟨e, rfl⟩
  · obtain ⟨_, _, hr⟩ := except_bind_eq_ok hr
    obtain ⟨a, ha, hr⟩ := except_bind_eq_ok hr
    obtain ⟨_, rfl⟩ := State.readLane_eq_ok_iff.1 ha
    obtain ⟨b, hb, hr⟩ := except_bind_eq_ok hr
    obtain ⟨_, rfl⟩ := State.readLane_eq_ok_iff.1 hb
    obtain ⟨c, hc, hr⟩ := except_bind_eq_ok hr
    obtain ⟨_, rfl⟩ := State.readLane_eq_ok_iff.1 hc
    cases hr
    exact .inr rfl

theorem execSetcolor_ok {vd : VIdx} (h1 : s.cfg.NamesVector vd) (h2 : s.LaneDefined vd 0)
    (h3 : s.LaneDefined vd 1) (h4 : s.LaneDefined vd 2) :
    execSetcolor vd s = .next ((s.writeVertex 0
        { s.vertex 0 with r := (shr4 ((s.vector vd).get 0)), g := (shr4 ((s.vector vd).get 1)), b := (shr4 ((s.vector vd).get 2)) }).setPc (s.pc + 1)) := by
  simp only [execSetcolor, State.checkVector_ok h1, State.readLane_ok h2, State.readLane_ok h3, State.readLane_ok
      h4, except_ok_bind, except_pure, retire_ok, nextPc_fallThrough]

theorem execSetcolor_cases {vd : VIdx} (h : execSetcolor vd s = .next t) :
    (∃ f, t = s.takeFault f) ∨ t = (s.writeVertex 0
        { s.vertex 0 with r := (shr4 ((s.vector vd).get 0)), g := (shr4 ((s.vector vd).get 1)), b := (shr4 ((s.vector vd).get 2)) }).setPc (s.pc + 1) := by
  rcases retire_cases h with ⟨e, _, rfl⟩ | ⟨u, disp, hr, rfl⟩
  · exact .inl ⟨e, rfl⟩
  · obtain ⟨_, _, hr⟩ := except_bind_eq_ok hr
    obtain ⟨a, ha, hr⟩ := except_bind_eq_ok hr
    obtain ⟨_, rfl⟩ := State.readLane_eq_ok_iff.1 ha
    obtain ⟨b, hb, hr⟩ := except_bind_eq_ok hr
    obtain ⟨_, rfl⟩ := State.readLane_eq_ok_iff.1 hb
    obtain ⟨c, hc, hr⟩ := except_bind_eq_ok hr
    obtain ⟨_, rfl⟩ := State.readLane_eq_ok_iff.1 hc
    cases hr
    exact .inr rfl

theorem execTranslate_ok {vd : VIdx} (h1 : s.cfg.NamesVector vd) (h2 : s.LaneDefined vd 1)
    (h3 : s.LaneDefined vd 2) :
    execTranslate vd s = .next ((s.mapVertices fun w =>
        { w with x := add16 w.x (fixedToTruncatedInt ((s.vector vd).get 1)), y := add16 w.y (fixedToTruncatedInt ((s.vector vd).get 2)) }).setPc (s.pc + 1)) := by
  simp only [execTranslate, State.checkVector_ok h1, State.readLane_ok h2, State.readLane_ok h3, except_ok_bind,
      except_pure, retire_ok, nextPc_fallThrough]

theorem execTranslate_cases {vd : VIdx} (h : execTranslate vd s = .next t) :
    (∃ f, t = s.takeFault f) ∨ t = (s.mapVertices fun w =>
        { w with x := add16 w.x (fixedToTruncatedInt ((s.vector vd).get 1)), y := add16 w.y (fixedToTruncatedInt ((s.vector vd).get 2)) }).setPc (s.pc + 1) := by
  rcases retire_cases h with ⟨e, _, rfl⟩ | ⟨u, disp, hr, rfl⟩
  · exact .inl ⟨e, rfl⟩
  · obtain ⟨_, _, hr⟩ := except_bind_eq_ok hr
    obtain ⟨a, ha, hr⟩ := except_bind_eq_ok hr
    obtain ⟨_, rfl⟩ := State.readLane_eq_ok_iff.1 ha
    obtain ⟨b, hb, hr⟩ := except_bind_eq_ok hr
    obtain ⟨_, rfl⟩ := State.readLane_eq_ok_iff.1 hb
    cases hr
    exact .inr rfl

theorem execJmp_ok {s1 : SIdx} (h1 : s.cfg.NamesScalar s1) (h2 : s.ScalarDefined s1) :
    execJmp s1 s = .next (s.setPc (byteToWordIndex (s.scalar s1) : Int)) := by
  simp only [execJmp, State.checkScalar_ok h1, State.readScalar_ok h2, except_ok_bind, except_pure, retire_ok,
      nextPc_registerTarget]

theorem execJmp_cases {s1 : SIdx} (h : execJmp s1 s = .next t) :
    (∃ f, t = s.takeFault f) ∨ t = s.setPc (byteToWordIndex (s.scalar s1) : Int) := by
  rcases retire_cases h with ⟨e, _, rfl⟩ | ⟨u, disp, hr, rfl⟩
  · exact .inl ⟨e, rfl⟩
  · obtain ⟨_, _, hr⟩ := except_bind_eq_ok hr
    obtain ⟨a, ha, hr⟩ := except_bind_eq_ok hr
    obtain ⟨_, rfl⟩ := State.readScalar_eq_ok_iff.1 ha
    cases hr
    exact .inr rfl

theorem execJsrr_ok {s1 : SIdx} (h1 : s.cfg.NamesScalar s1) (h2 : s1 ≠ s.cfg.lrIdx) (h3 : s.ScalarDefined s1) :
    execJsrr s1 s = .next ((s.writeScalar s.cfg.lrIdx (linkValue s.pc)).setPc
        (byteToWordIndex (s.scalar s1) : Int)) := by
  simp only [execJsrr, State.checkScalar_ok h1, State.checkNotLink_ok h2, State.readScalar_ok h3, except_ok_bind,
      except_pure, retireCall_ok, nextPc_registerTarget]

theorem execJsrr_cases {s1 : SIdx} (h : execJsrr s1 s = .next t) :
    (∃ f, t = s.takeFault f) ∨ t = (s.writeScalar s.cfg.lrIdx (linkValue s.pc)).setPc
        (byteToWordIndex (s.scalar s1) : Int) := by
  rcases retireCall_cases h with ⟨e, _, rfl⟩ | ⟨u, disp, hr, rfl⟩
  · exact .inl ⟨e, rfl⟩
  · obtain ⟨_, _, hr⟩ := except_bind_eq_ok hr
    obtain ⟨_, _, hr⟩ := except_bind_eq_ok hr
    obtain ⟨a, ha, hr⟩ := except_bind_eq_ok hr
    obtain ⟨_, rfl⟩ := State.readScalar_eq_ok_iff.1 ha
    cases hr
    exact .inr rfl

end Sys2Proof.Machine
end

