-- ==== Sys2Proof/Laws/Numeric.lean ====
section
/-! SUPPORT. What the rounding of `FloatToFixed` does (40_numeric.md R123): the identity on integers, a neighbour
under every named rounding, and the same on a rational as on the real it is. -/

namespace Sys2Proof.Machine

section

variable {R : Type} [Field R] [LinearOrder R] [FloorRing R]

/-- On an integer every rounding is the identity. -/
@[simp] theorem roundBy_intCast [IsStrictOrderedRing R] (m : FtfRound) (n : Int) : roundBy m (n : R) = n := by
  simp [roundBy]

/-- A neighbour is the integer below or the one above. -/
theorem pickNeighbour_cases (d : RoundDir) (n : Int) (neg : Bool) :
    pickNeighbour d n neg = n ∨ pickNeighbour d n neg = n + 1 := by
  cases d <;> simp only [pickNeighbour] <;> (try split) <;> simp

/-- All a named rounding can do: the integer at or below, or the next one. -/
theorem roundBy_cases {m : FtfRound} (q : R) (h : ∀ k, m ≠ .other k) :
    roundBy m q = ⌊q⌋ ∨ roundBy m q = ⌊q⌋ + 1 := by
  unfold roundBy
  split
  · exact .inl rfl
  · cases m with
    | directed d => exact pickNeighbour_cases d _ _
    | nearest d =>
      simp only
      split
      · exact .inl rfl
      · split
        · exact .inr rfl
        · exact pickNeighbour_cases d _ _
    | other k => exact absurd rfl (h k)

end

/-- A rational rounds as the real it is. -/
theorem roundBy_ratCast (m : FtfRound) (q : Rat) : roundBy m (q : Real) = roundBy m q := by
  have e : ((⌊q⌋ : Real) = q) ↔ ((⌊q⌋ : Rat) = q) := by exact_mod_cast Iff.rfl
  have n : ((q : Real) < 0) ↔ q < 0 := by exact_mod_cast Iff.rfl
  have l : (2 * ((q : Real) - ⌊q⌋) < 1) ↔ 2 * (q - ⌊q⌋) < 1 := by exact_mod_cast Iff.rfl
  have g : (1 < 2 * ((q : Real) - ⌊q⌋)) ↔ 1 < 2 * (q - ⌊q⌋) := by exact_mod_cast Iff.rfl
  unfold roundBy
  cases m <;> simp [Rat.floor_cast, e, n, l, g, -Int.self_sub_floor]

/-- `FloatToFixed` of a rational is that of the real it is. -/
theorem floatToFixed_ratCast (c : Config) (q : Rat) : floatToFixed c (q : Real) = floatToFixed c q := by
  have h : (16 : Real) * (q : Real) = ((16 * q : Rat) : Real) := by push_cast; ring
  rw [floatToFixed, floatToFixed, h, roundBy_ratCast]

end Sys2Proof.Machine
end

