-- ==== Sys2Proof/Laws/PerInstr.lean ====
section
/-! SUPPORT. The statements made instruction by instruction. `FieldsRoundTrip`: the encoded word holds the
instruction's opcode value, and its fields read back under the instruction's format are its operands. -/

namespace Sys2Proof.Laws.FieldsRoundTrip

-- One lemma at a time: many at once hold more threads than the check's memory limit allows.
set_option Elab.async false

/-- The encoding of `i` under any `OPC` gives back the opcode value and the operands of `i`. -/
def Statement (i : Instr) : Prop :=
  ∀ o : Opc, fieldOp (encode o i) = o.code i.mnem ∧ decodeAs i.mnem (encode o i) = i

theorem addD (d s1 s2 : SIdx) : Statement (.addD d s1 s2) := by
  intro o
  simp [encode, decodeAs, Instr.mnem]

theorem addF (d s1 s2 : SIdx) : Statement (.addF d s1 s2) := by
  intro o
  simp [encode, decodeAs, Instr.mnem]

theorem addiD (d s1 : SIdx) (imm : Raw16) : Statement (.addiD d s1 imm) := by
  intro o
  simp [encode, decodeAs, Instr.mnem]

theorem addiF (d s1 : SIdx) (imm : Raw16) : Statement (.addiF d s1 imm) := by
  intro o
  simp [encode, decodeAs, Instr.mnem]

theorem vadd (vd vs1 vs2 : VIdx) : Statement (.vadd vd vs1 vs2) := by
  intro o
  simp [encode, decodeAs, Instr.mnem]

theorem andD (d s1 s2 : SIdx) : Statement (.andD d s1 s2) := by
  intro o
  simp [encode, decodeAs, Instr.mnem]

theorem andiD (d s1 : SIdx) (imm : Raw16) : Statement (.andiD d s1 imm) := by
  intro o
  simp [encode, decodeAs, Instr.mnem]

theorem mov (md ms : SIdx) : Statement (.mov md ms) := by
  intro o
  simp [encode, decodeAs, Instr.mnem]

theorem moviD (md : SIdx) (imm : Raw16) : Statement (.moviD md imm) := by
  intro o
  simp [encode, decodeAs, Instr.mnem]

theorem moviF (md : SIdx) (imm : Raw16) : Statement (.moviF md imm) := by
  intro o
  simp [encode, decodeAs, Instr.mnem]

theorem vmov (vd vs1 : VIdx) : Statement (.vmov vd vs1) := by
  intro o
  simp [encode, decodeAs, Instr.mnem]

theorem vmovi (vd : VIdx) (imm : Raw16) : Statement (.vmovi vd imm) := by
  intro o
  simp [encode, decodeAs, Instr.mnem]

theorem cmp (s1 s2 : SIdx) : Statement (.cmp s1 s2) := by
  intro o
  simp [encode, decodeAs, Instr.mnem]

theorem cmpi (s1 : SIdx) (imm : Raw16) : Statement (.cmpi s1 imm) := by
  intro o
  simp [encode, decodeAs, Instr.mnem]

theorem vcompmov (lane : LaneIdx) (vd : VIdx) (s2 : SIdx) : Statement (.vcompmov lane vd s2) := by
  intro o
  simp [encode, decodeAs, Instr.mnem]

theorem vcompmovi (lane : LaneIdx) (vd : VIdx) (imm : Raw16) : Statement (.vcompmovi lane vd imm) := by
  intro o
  simp [encode, decodeAs, Instr.mnem]

theorem ldb (d s1 : SIdx) (imm : Raw16) : Statement (.ldb d s1 imm) := by
  intro o
  simp [encode, decodeAs, Instr.mnem]

theorem ldw (d s1 : SIdx) (imm : Raw16) : Statement (.ldw d s1 imm) := by
  intro o
  simp [encode, decodeAs, Instr.mnem]

theorem stb (d s1 : SIdx) (imm : Raw16) : Statement (.stb d s1 imm) := by
  intro o
  simp [encode, decodeAs, Instr.mnem]

theorem stw (d s1 : SIdx) (imm : Raw16) : Statement (.stw d s1 imm) := by
  intro o
  simp [encode, decodeAs, Instr.mnem]

theorem setvertex (vd : VIdx) : Statement (.setvertex vd) := by
  intro o
  simp [encode, decodeAs, Instr.mnem]

theorem setcolor (vd : VIdx) : Statement (.setcolor vd) := by
  intro o
  simp [encode, decodeAs, Instr.mnem]

theorem rotate (vd : VIdx) : Statement (.rotate vd) := by
  intro o
  simp [encode, decodeAs, Instr.mnem]

theorem translate (vd : VIdx) : Statement (.translate vd) := by
  intro o
  simp [encode, decodeAs, Instr.mnem]

theorem scale (vd : VIdx) : Statement (.scale vd) := by
  intro o
  simp [encode, decodeAs, Instr.mnem]

theorem beginprimitive (prim : PrimSel) : Statement (.beginprimitive prim) := by
  intro o
  simp [encode, decodeAs, Instr.mnem]

theorem flush : Statement .flush := by
  intro o
  simp [encode, decodeAs, Instr.mnem]

theorem draw : Statement .draw := by
  intro o
  simp [encode, decodeAs, Instr.mnem]

theorem brn (imm : Raw16) : Statement (.brn imm) := by
  intro o
  simp [encode, decodeAs, Instr.mnem]

theorem brz (imm : Raw16) : Statement (.brz imm) := by
  intro o
  simp [encode, decodeAs, Instr.mnem]

theorem brp (imm : Raw16) : Statement (.brp imm) := by
  intro o
  simp [encode, decodeAs, Instr.mnem]

theorem brnz (imm : Raw16) : Statement (.brnz imm) := by
  intro o
  simp [encode, decodeAs, Instr.mnem]

theorem brnp (imm : Raw16) : Statement (.brnp imm) := by
  intro o
  simp [encode, decodeAs, Instr.mnem]

theorem brzp (imm : Raw16) : Statement (.brzp imm) := by
  intro o
  simp [encode, decodeAs, Instr.mnem]

theorem brnzp (imm : Raw16) : Statement (.brnzp imm) := by
  intro o
  simp [encode, decodeAs, Instr.mnem]

theorem jmp (s1 : SIdx) : Statement (.jmp s1) := by
  intro o
  simp [encode, decodeAs, Instr.mnem]

theorem jsr (imm : Raw16) : Statement (.jsr imm) := by
  intro o
  simp [encode, decodeAs, Instr.mnem]

theorem jsrr (s1 : SIdx) : Statement (.jsrr s1) := by
  intro o
  simp [encode, decodeAs, Instr.mnem]

theorem halt : Statement .halt := by
  intro o
  simp [encode, decodeAs, Instr.mnem]

end Sys2Proof.Laws.FieldsRoundTrip
end

