-- ==== Sys2Proof/Tests/Slice0.lean ====
section
/-! SUPPORT. Tests and witnesses. The expected values of the tests are the spec's own vectors
(95_test_vectors.md, tables T1 to T8) or, where it says so, worked out by hand from the rule cited. The witnesses
show, for each statement of Obligations.lean that has hypotheses, a concrete state and operands that meet them. -/

open Sys2Proof Sys2Proof.Machine

namespace Sys2Proof.Tests

-- One test at a time: many at once hold more threads than the check's memory limit allows.
set_option Elab.async false

/-- The reset state under R8's default parameters (`RESET_REGS = undefined`), the convention of
95_test_vectors.md; the undefined contents are taken as zeros. -/
def start : State := State.resetWith Config.specDefault [] PowerOn.zero

/-- `s` with x[i] = a. -/
def x (i : SIdx) (a : Raw16) (s : State) : State := s.writeScalar i a

/-- `s` with v[j] = (a, b, c, d). -/
def v (j : VIdx) (a b c d : Raw16) (s : State) : State := s.writeVector j ⟨a, b, c, d⟩

/-- `s` with lane `k` of v[j] = a. -/
def lane (j : VIdx) (k : LaneIdx) (a : Raw16) (s : State) : State := s.writeLane j k a

/-- `s` with mem[a] = b. -/
def m (a : Nat) (b : Byte) (s : State) : State := s.setByte a b

/-- `s` with the condition code `c`, written. -/
def flag (c : CC) (s : State) : State := { s with cc := c, ccw := true }

/-- `s` at word index `k`. -/
def at' (k : Int) (s : State) : State := s.setPc k

/-- One step of `s` with the word `iw` at its `pc`, looked at by `f`. -/
def look {α : Type} (iw : IWord) (f : State → α) (s : State) : Option α :=
  match step (withNextWord s iw) with
  | .next t => some (f t)
  | _ => none

/-- The fault a step records. -/
def faultOf (t : State) : Option FaultRecord := t.fault

/-- A vertex slot's position. -/
def pos (n : Fin 3) (t : State) : Raw16 × Raw16 × Raw16 := ((t.vertex n).x, (t.vertex n).y, (t.vertex n).z)

/-! ### WellFormed: each check refuses a term that breaks it -/

/-- R24 check 1: index 3 with NSREG = 3. -/
theorem test_smoke_scalar_index_ge_NSREG :
    ¬(Instr.addD 2 0 3).WellFormed { nsreg := 3, pcIdx := 1, lrIdx := 0 } := by decide

/-- R24 check 2: the reserved index as a source, a destination, a data register. -/
theorem test_smoke_scalar_index_is_PC_IDX :
    ¬(Instr.addD 0 15 1).WellFormed {} ∧ ¬(Instr.moviD 15 0).WellFormed {} ∧ ¬(Instr.stw 15 0 0).WellFormed {} :=
        by decide

/-- R31 check 1: index 8 with NVREG = 8. -/
theorem test_smoke_vector_index_ge_NVREG :
    ¬(Instr.vadd 0 1 8).WellFormed { nvreg := 8 } ∧ ¬(Instr.setvertex 8).WellFormed { nvreg := 8 } := by decide

/-- R212: JSRR through the link register; R24: through the reserved index. -/
theorem test_smoke_jsrr_link :
    ¬(Instr.jsrr 14).WellFormed {} ∧ ¬(Instr.jsrr 15).WellFormed {} := by decide

/-- Terms at the ends of the ranges are well formed, and ROTATE with any operand is (R172). -/
theorem test_smoke_accepts :
    (Instr.addD 14 0 13).WellFormed {} ∧ (Instr.vadd 63 0 62).WellFormed {} ∧ (Instr.jsrr 13).WellFormed {} ∧
      (Instr.rotate 63).WellFormed { nvreg := 1 } := by decide

/-- R8's constraint column, one broken constraint each. -/
theorem test_smoke_parameters :
    Config.specDefault.Valid ∧ Config.atReset.Valid ∧ ¬Config.Valid { nsreg := 2 } ∧ ¬Config.Valid { nsreg := 17 } ∧
      ¬Config.Valid { pcIdx := 14 } ∧ ¬Config.Valid { nsreg := 15 } ∧ ¬Config.Valid { nvreg := 65 } ∧
      ¬Config.Valid { nvreg := 0 } ∧ ¬Config.Valid { memsize := 0 } ∧ ¬Config.Valid { opc := { halt := 0 } } := by
  and_intros <;> decide

/-! ### Decode: each word is the table's or written out from its format (30_encoding.md R85, R95) -/

theorem test_decode_addD : decodeTableWord 32 0x00ABCDEF = some (.addD 0xA 0xB 0xD) := by decide
theorem test_decode_addF : decodeTableWord 32 0x01340500 = some (.addF 3 4 5) := by decide
theorem test_decode_addiD : decodeTableWord 32 0x0211FFFF = some (.addiD 1 1 0xFFFF) := by decide
theorem test_decode_addiF : decodeTableWord 32 0x03230018 = some (.addiF 2 3 0x0018) := by decide
theorem test_decode_vadd : decodeTableWord 32 0x04D5E6E7 = some (.vadd 21 38 39) := by decide
theorem test_decode_andD : decodeTableWord 32 0x05010200 = some (.andD 0 1 2) := by decide
theorem test_decode_andiD : decodeTableWord 32 0x060100FF = some (.andiD 0 1 0x00FF) := by decide
theorem test_decode_mov : decodeTableWord 32 0x07F20700 = some (.mov 2 7) := by decide
theorem test_decode_moviD : decodeTableWord 32 0x0801FFFF = some (.moviD 1 0xFFFF) := by decide
theorem test_decode_moviF : decodeTableWord 32 0x09040018 = some (.moviF 4 0x0018) := by decide
theorem test_decode_vmov : decodeTableWord 32 0x0A050900 = some (.vmov 5 9) := by decide
theorem test_decode_vmovi : decodeTableWord 32 0x0B020010 = some (.vmovi 2 0x0010) := by decide
theorem test_decode_cmp : decodeTableWord 32 0x0C010200 = some (.cmp 1 2) := by decide
theorem test_decode_cmpi : decodeTableWord 32 0x0D018000 = some (.cmpi 1 0x8000) := by decide
theorem test_decode_vcompmov : decodeTableWord 32 0x0EC10200 = some (.vcompmov 3 1 2) := by decide
theorem test_decode_vcompmovi : decodeTableWord 32 0x0F8A1234 = some (.vcompmovi 2 10 0x1234) := by decide
theorem test_decode_ldb : decodeTableWord 32 0x1012FFFF = some (.ldb 1 2 0xFFFF) := by decide
theorem test_decode_ldw : decodeTableWord 32 0x1112FFFE = some (.ldw 1 2 0xFFFE) := by decide
theorem test_decode_stb : decodeTableWord 32 0x1212FFFF = some (.stb 1 2 0xFFFF) := by decide
theorem test_decode_stw : decodeTableWord 32 0x13E60002 = some (.stw 14 6 0x0002) := by decide
theorem test_decode_setvertex : decodeTableWord 32 0x20010000 = some (.setvertex 1) := by decide
theorem test_decode_setcolor : decodeTableWord 32 0x21020000 = some (.setcolor 2) := by decide
theorem test_decode_rotate : decodeTableWord 32 0x223F0000 = some (.rotate 63) := by decide
theorem test_decode_translate : decodeTableWord 32 0x23030000 = some (.translate 3) := by decide
theorem test_decode_scale : decodeTableWord 32 0x24010000 = some (.scale 1) := by decide
theorem test_decode_beginprimitive : decodeTableWord 32 0x25F30000 = some (.beginprimitive 3) := by decide
theorem test_decode_flush : decodeTableWord 32 0x26000000 = some (.flush) := by decide
theorem test_decode_draw : decodeTableWord 32 0x27ABCDEF = some (.draw) := by decide
theorem test_decode_brn : decodeTableWord 32 0x3000FFFD = some (.brn 0xFFFD) := by decide
theorem test_decode_brz : decodeTableWord 32 0x31000002 = some (.brz 2) := by decide
theorem test_decode_brp : decodeTableWord 32 0x3200FFFD = some (.brp 0xFFFD) := by decide
theorem test_decode_brnz : decodeTableWord 32 0x33000004 = some (.brnz 4) := by decide
theorem test_decode_brnp : decodeTableWord 32 0x3400FFFE = some (.brnp 0xFFFE) := by decide
theorem test_decode_brzp : decodeTableWord 32 0x35007FFF = some (.brzp 0x7FFF) := by decide
theorem test_decode_brnzp : decodeTableWord 32 0x3600FFFF = some (.brnzp 0xFFFF) := by decide
theorem test_decode_jmp : decodeTableWord 32 0x370E0000 = some (.jmp 14) := by decide
theorem test_decode_jsr : decodeTableWord 32 0x38FF000A = some (.jsr 0x000A) := by decide
theorem test_decode_jsrr : decodeTableWord 32 0x39030000 = some (.jsrr 3) := by decide
theorem test_decode_halt : decodeTableWord 32 0x40000000 = some (.halt) := by decide

/-- T7, T8: the opcodes 41, FF and 14 are not assigned. -/
theorem test_decode_nop :
    decode {} 0x41000000 = .nop 0x41 ∧ decode {} 0xFF123456 = .nop 0xFF ∧ decode {} 0x14000000 = .nop 0x14 ∧
      decodeTableWord 32 0x41000000 = none := by decide

/-- The encoder writes ignored bits as 0 (T8 and P2, ignored bits cleared by hand). -/
theorem test_encode_words :
    encode {} (.addD 0xA 0xB 0xD) = 0x00AB0D00 ∧ encode {} (.vadd 21 38 39) = 0x04152627 ∧
      encode {} (.vcompmov 3 1 2) = 0x0EC10200 ∧ encode {} (.stw 14 6 2) = 0x13E60002 ∧
      encode {} (.jsr 0x000A) = 0x3800000A ∧ encode {} (.mov 2 7) = 0x07020700 := by decide

/-! ### Numeric helpers: table T1 -/

theorem test_numeric_0000 : s16 0x0000 = 0 ∧ signExtend16to32 0x0000 = 0x00000000 ∧ fixedToFloat 0x0000 = 0 ∧
    fixedToTruncatedInt 0x0000 = 0x0000 ∧ shr4 0x0000 = 0x0000 := by decide +kernel

theorem test_numeric_0001 : s16 0x0001 = 1 ∧ signExtend16to32 0x0001 = 0x00000001 ∧ fixedToFloat 0x0001 = 1/16 ∧
    fixedToTruncatedInt 0x0001 = 0x0000 ∧ shr4 0x0001 = 0x0000 := by decide +kernel

theorem test_numeric_0018 : s16 0x0018 = 24 ∧ signExtend16to32 0x0018 = 0x00000018 ∧ fixedToFloat 0x0018 = 3/2 ∧
    fixedToTruncatedInt 0x0018 = 0x0001 ∧ shr4 0x0018 = 0x0001 := by decide +kernel

theorem test_numeric_7FFF : s16 0x7FFF = 32767 ∧ signExtend16to32 0x7FFF = 0x00007FFF ∧ fixedToFloat 0x7FFF =
    32767/16 ∧
    fixedToTruncatedInt 0x7FFF = 0x07FF ∧ shr4 0x7FFF = 0x07FF := by decide +kernel

theorem test_numeric_8000 : s16 0x8000 = -32768 ∧ signExtend16to32 0x8000 = 0xFFFF8000 ∧ fixedToFloat 0x8000 =
    -2048 ∧
    fixedToTruncatedInt 0x8000 = 0xF800 ∧ shr4 0x8000 = 0x0800 := by decide +kernel

theorem test_numeric_8010 : s16 0x8010 = -32752 ∧ signExtend16to32 0x8010 = 0xFFFF8010 ∧ fixedToFloat 0x8010 =
    -2047 ∧
    fixedToTruncatedInt 0x8010 = 0xF801 ∧ shr4 0x8010 = 0x0801 := by decide +kernel

theorem test_numeric_FFEF : s16 0xFFEF = -17 ∧ signExtend16to32 0xFFEF = 0xFFFFFFEF ∧ fixedToFloat 0xFFEF = -17/16 ∧
    fixedToTruncatedInt 0xFFEF = 0xFFFE ∧ shr4 0xFFEF = 0x0FFE := by decide +kernel

theorem test_numeric_FFFF : s16 0xFFFF = -1 ∧ signExtend16to32 0xFFFF = 0xFFFFFFFF ∧ fixedToFloat 0xFFFF = -1/16 ∧
    fixedToTruncatedInt 0xFFFF = 0xFFFF ∧ shr4 0xFFFF = 0x0FFF := by decide +kernel

/-- The values below table T1, wraps and roundings included. -/
theorem test_floatToFixed :
    floatToFixed {} (3/2 : Rat) = 0x0018 ∧ floatToFixed {} (-1 : Rat) = 0xFFF0 ∧
      floatToFixed {} (2048 : Rat) = 0x8000 ∧ floatToFixed {} (4096 : Rat) = 0x0000 ∧
      floatToFixed {} (-2049 : Rat) = 0x7FF0 ∧ floatToFixed {} (7/100 : Rat) = 0x0001 ∧
      floatToFixed {} (-7/100 : Rat) = 0xFFFF ∧ floatToFixed {} (-3/100 : Rat) = 0x0000 := by decide +kernel

/-- Other roundings, worked out by hand from R123: 16 f is -1.12, 1.12, 2.5, 1.5, -1.5, 1.75 and 24. -/
theorem test_rounding_modes :
    floatToFixed { ftfRound := .directed .towardNegInf } (-7/100 : Rat) = 0xFFFE ∧
      floatToFixed { ftfRound := .directed .awayFromZero } (7/100 : Rat) = 0x0002 ∧
      floatToFixed { ftfRound := .nearest .toEven } (5/32 : Rat) = 0x0002 ∧
      floatToFixed { ftfRound := .nearest .toEven } (3/32 : Rat) = 0x0002 ∧
      floatToFixed { ftfRound := .nearest .towardZero } (-3/32 : Rat) = 0xFFFF ∧
      floatToFixed { ftfRound := .nearest .towardZero } (7/64 : Rat) = 0x0002 ∧
      floatToFixed { ftfRound := .other 3 } (3/2 : Rat) = 0x0018 := by decide +kernel

/-- T1, last line. -/
theorem test_setCC :
    compareFlag (s16 0) 0 = .Z ∧ compareFlag (s16 0x7FFF) 0 = .P ∧ compareFlag (s16 0x8000) 0 = .N := by decide

/-! ### One step of each instruction: tables T2 to T7, whose words and values these are -/

theorem test_addD_signed_overflow :
    look 0x00010200 (fun t => (t.scalar 0, t.cc, t.pc)) (start |> x 1 0x7FFF |> x 2 1) =
      some (0x8000, .N, 1) := by decide

theorem test_addD_source_is_destination :
    look 0x00110100 (fun t => (t.scalar 1, t.cc, t.pc)) (start |> x 1 0x4000) =
      some (0x8000, .N, 1) := by decide

theorem test_addF :
    look 0x01340500 (fun t => (t.scalar 3, t.cc, t.pc)) (start |> x 4 0x0018 |> x 5 0xFFF0) =
      some (0x0008, .P, 1) := by decide

theorem test_addiD_wraps :
    look 0x0211FFFF (fun t => (t.scalar 1, t.cc, t.pc)) (start |> x 1 0) =
      some (0xFFFF, .N, 1) := by decide

theorem test_addiD_zero :
    look 0x02218000 (fun t => (t.scalar 2, t.cc, t.pc)) (start |> x 1 0x8000) =
      some (0x0000, .Z, 1) := by decide

theorem test_addiF :
    look 0x03230018 (fun t => (t.scalar 2, t.cc, t.pc)) (start |> x 3 0x0010) =
      some (0x0028, .P, 1) := by decide

theorem test_andD :
    look 0x05010200 (fun t => (t.scalar 0, t.cc, t.pc)) (start |> x 1 0xF0F0 |> x 2 0x8F0F) =
      some (0x8000, .N, 1) := by decide

theorem test_andiD :
    look 0x060100FF (fun t => (t.scalar 0, t.cc, t.pc)) (start |> x 1 0x1234) =
      some (0x0034, .P, 1) := by decide

theorem test_addD_reserved_before_undefined :
    look 0x000F0200 (fun t => (t.fault, t.pc)) start =
      some (some ⟨.reservedRegister, 15⟩, 0) := by decide

theorem test_addD_undefined_read :
    look 0x00010200 (fun t => (t.fault, t.scalarWritten 0, t.pc)) (start |> x 1 5) =
      some (some ⟨.undefinedRead, 2⟩, false, 0) := by decide

theorem test_mov :
    look 0x07020700 (fun t => (t.scalar 2, t.cc, t.pc)) (start |> x 7 0x8000) =
      some (0x8000, .N, 1) := by decide

theorem test_mov_zero :
    look 0x07020700 (fun t => (t.scalar 2, t.cc, t.pc)) (start |> x 7 0 |> flag .P) =
      some (0x0000, .Z, 1) := by decide

theorem test_moviD :
    look 0x0801FFFF (fun t => (t.scalar 1, t.cc, t.pc)) start =
      some (0xFFFF, .N, 1) := by decide

theorem test_moviF_link_register :
    look 0x090E0014 (fun t => (t.scalar 14, t.cc, t.pc)) start =
      some (0x0014, .P, 1) := by decide

theorem test_cmp_no_wrap :
    look 0x0C010200 (fun t => (t.cc, t.ccw, t.pc)) (start |> x 1 0x8000 |> x 2 0x7FFF) =
      some (.N, true, 1) := by decide

theorem test_cmp_greater :
    look 0x0C010200 (fun t => (t.cc, t.scalar 1, t.scalar 2)) (start |> x 1 0x7FFF |> x 2 0x8000) =
      some (.P, 0x7FFF, 0x8000) := by decide

theorem test_cmpi_signed_immediate :
    look 0x0D018000 (fun t => (t.cc, t.scalar 1, t.pc)) (start |> x 1 0) =
      some (.P, 0, 1) := by decide

theorem test_cmpi_equal :
    look 0x0D01FFFF (fun t => (t.cc, t.pc)) (start |> x 1 0xFFFF) =
      some (.Z, 1) := by decide

theorem test_vadd_lanes_wrap :
    look 0x04010203 (fun t => (t.vector 1, t.cc, t.pc))
        (start |> v 2 0x0001 0xFFFF 0x7FFF 0x8000 |> v 3 0x0002 0x0001 0x0001 0x8000 |> flag .Z) =
      some (⟨0x0003, 0x0000, 0x8000, 0x0000⟩, .Z, 1) := by decide

theorem test_vadd_undefined_lane :
    look 0x04010203 (fun t => (t.fault, t.vectorWritten 1, t.pc))
        (start |> v 2 1 2 3 4 |> lane 3 0 1 |> lane 3 2 3 |> lane 3 3 4) =
      some (some ⟨.undefinedRead, 67⟩, ⟨false, false, false, false⟩, 0) := by decide

theorem test_vmov :
    look 0x0A050600 (fun t => (t.vector 5, t.pc)) (start |> v 6 1 2 3 4) =
      some (⟨1, 2, 3, 4⟩, 1) := by decide

theorem test_vmov_undefined_lane :
    look 0x0A050900 (fun t => (t.fault, t.pc)) (start |> lane 9 0 7) =
      some (some ⟨.undefinedRead, 73⟩, 0) := by decide

theorem test_vmovi :
    look 0x0B020010 (fun t => (t.vector 2, t.cc, t.pc)) (start |> flag .N) =
      some (⟨0x0010, 0x0010, 0x0010, 0x0010⟩, .N, 1) := by decide

theorem test_vcompmov :
    look 0x0EC10200 (fun t => (t.vector 1, t.pc)) (start |> x 2 0xBEEF |> v 1 1 2 3 4) =
      some (⟨1, 2, 3, 0xBEEF⟩, 1) := by decide

theorem test_vcompmov_unwritten_lanes :
    look 0x0E090200 (fun t => ((t.vector 9).l0, t.vectorWritten 9, t.fault)) (start |> x 2 7) =
      some (7, ⟨true, false, false, false⟩, none) := by decide

theorem test_vcompmovi :
    look 0x0F410050 (fun t => (t.vector 1, t.pc)) (start |> v 1 1 2 3 4) =
      some (⟨1, 0x0050, 3, 4⟩, 1) := by decide

theorem test_ldb_zero_extends :
    look 0x10120002 (fun t => (t.scalar 1, t.cc, t.pc)) (start |> x 2 0x0100 |> m 0x0102 0x80) =
      some (0x0080, .P, 1) := by decide

theorem test_ldb_below_zero :
    look 0x1012FFFF (fun t => (t.fault, t.pc)) (start |> x 2 0) =
      some (some ⟨.memOutOfRange, -1⟩, 0) := by decide

theorem test_ldw_odd_address :
    look 0x11120001 (fun t => (t.scalar 1, t.cc, t.pc))
        (start |> x 2 0x0200 |> m 0x0200 0x11 |> m 0x0201 0x22 |> m 0x0202 0x33) =
      some (0x3322, .P, 1) := by decide

theorem test_ldw_base_is_destination :
    look 0x11220000 (fun t => (t.scalar 2, t.cc, t.pc)) (start |> x 2 0x0200 |> m 0x0200 0x34 |> m 0x0201 0x12) =
      some (0x1234, .P, 1) := by decide

theorem test_stb_low_byte :
    look 0x1212FFFF (fun t => (t.byteAt 0x000F, t.byteAt 0x0010, t.cc, t.pc))
        (start |> x 1 0xABCD |> x 2 0x0010 |> flag .Z) =
      some (0xCD, 0, .Z, 1) := by decide

theorem test_stb_last_byte :
    look 0x12120000 (fun t => (t.byteAt 0xFFFF, t.fault)) (start |> x 1 0x1234 |> x 2 0xFFFF) =
      some (0x34, none) := by decide

theorem test_stw_little_endian :
    look 0x13120000 (fun t => (t.byteAt 0x0200, t.byteAt 0x0201, t.ccw, t.pc)) (start |> x 1 0x1234 |> x 2 0x0200) =
      some (0x34, 0x12, false, 1) := by decide

theorem test_stw_second_byte_out_of_range :
    look 0x13120000 (fun t => (t.fault, t.mem, t.pc)) (start |> x 1 0x1234 |> x 2 0xFFFF) =
      some (some ⟨.memOutOfRange, 65535⟩, [], 0) := by decide

theorem test_setvertex :
    look 0x20010000 (fun t => (pos 0 t, t.cur, t.pc))
        (start |> lane 1 1 0x0050 |> lane 1 2 0x00A8 |> lane 1 3 0x8010) =
      some ((0x0005, 0x000A, 0x0801), 1, 1) := by decide

theorem test_setvertex_cursor_wraps :
    look 0x20010000 (fun t => (pos 2 t, t.cur, t.pc))
        (start |> v 1 0x0000 0xFFF0 0x000F 0x0010 |> fun s => s.setCur 2) =
      some ((0x0FFF, 0x0000, 0x0001), 0, 1) := by decide

theorem test_setcolor_slot_0 :
    look 0x21020000 (fun t => ((t.vertex 0).r, (t.vertex 0).g, (t.vertex 0).b, t.cur))
        (start |> lane 2 0 0x0FF0 |> lane 2 1 0x0800 |> lane 2 2 0x0000 |> fun s => s.setCur 2) =
      some (0x00FF, 0x0080, 0x0000, 2) := by decide

theorem test_translate :
    look 0x23030000 (fun t => (pos 0 t, pos 1 t, pos 2 t, t.cur))
        (start |> lane 3 1 0x0020 |> lane 3 2 0xFFF0 |> fun s => s.writeVertex 0 ⟨0x000A, 0x0005, 0, 0, 0, 0⟩ |>
        fun s => s.writeVertex 2 ⟨0x0FFF, 0x0001, 0, 0, 0, 0⟩) =
      some ((0x000C, 0x0004, 0), (0x0002, 0xFFFF, 0), (0x1001, 0x0000, 0), 0) := by decide

theorem test_translate_floor :
    look 0x23030000 (fun t => (pos 0 t, pos 1 t))
        (start |> lane 3 1 0xFFFF |> lane 3 2 0x000F |> fun s => s.writeVertex 0 ⟨0x000A, 0x0005, 0, 0, 0, 0⟩) =
      some ((0x0009, 0x0005, 0), (0xFFFF, 0x0000, 0)) := by decide

theorem test_rotate_placeholder :
    look 0x223F0000 (fun t => (t.fault, t.pc, t.v == start.v)) start =
      some (none, 1, true) := by decide

theorem test_scale_placeholder :
    look 0x24010000 (fun t => (t.fault, t.pc, t.vtx == start.vtx)) start =
      some (none, 1, true) := by decide

theorem test_beginprimitive_triangle :
    look 0x250F0000 (fun t => (t.gsr, t.pc)) (start |> fun s => s.setGsr ⟨true, false, false, false⟩) =
      some (⟨false, true, false, false⟩, 1) := by decide

theorem test_beginprimitive_line :
    look 0x25000000 (fun t => (t.gsr, t.pc)) (start |> fun s => s.setGsr ⟨false, true, true, false⟩) =
      some (⟨true, false, true, false⟩, 1) := by decide

theorem test_flush :
    look 0x26000000 (fun t => (t.gsr, t.pc)) (start |> fun s => s.setGsr ⟨false, true, true, false⟩) =
      some (⟨false, true, false, true⟩, 1) := by decide

theorem test_draw :
    look 0x27000000 (fun t => (t.gsr, t.pc)) (start |> fun s => s.setGsr ⟨false, true, false, true⟩) =
      some (⟨false, true, true, false⟩, 1) := by decide

theorem test_brn_backwards :
    look 0x3000FFFD (fun t => (t.pc, t.fault)) (start |> flag .N |> at' 8) =
      some (6, none) := by decide

theorem test_brn_far :
    look 0x30008000 (fun t => (t.pc, t.fault)) (start |> flag .N |> at' 9) =
      some (-32758, none) := by decide

theorem test_brz_taken :
    look 0x31000002 (fun t => (t.pc, t.fault)) (start |> flag .Z |> at' 10) =
      some (13, none) := by decide

theorem test_brz_undefined_cc :
    look 0x31000001 (fun t => (t.pc, t.fault)) start =
      some (0, some ⟨.undefinedRead, 128⟩) := by decide

theorem test_brp_taken :
    look 0x3200FFFD (fun t => (t.pc, t.fault)) (start |> flag .P |> at' 5) =
      some (3, none) := by decide

theorem test_brnz_taken :
    look 0x33000004 (fun t => (t.pc, t.fault)) (start |> flag .N |> at' 2) =
      some (7, none) := by decide

theorem test_brnz_not_taken :
    look 0x33000004 (fun t => (t.pc, t.fault)) (start |> flag .P |> at' 2) =
      some (3, none) := by decide

theorem test_brnp_not_taken :
    look 0x3400FFFE (fun t => (t.pc, t.fault)) (start |> flag .Z |> at' 5) =
      some (6, none) := by decide

theorem test_brnp_taken :
    look 0x3400FFFE (fun t => (t.pc, t.fault)) (start |> flag .P |> at' 5) =
      some (4, none) := by decide

theorem test_brzp_far :
    look 0x35007FFF (fun t => (t.pc, t.fault)) (start |> flag .Z) =
      some (32768, none) := by decide

theorem test_brnzp_self :
    look 0x3600FFFF (fun t => (t.pc, t.fault)) (start |> at' 12) =
      some (12, none) := by decide

theorem test_jmp_drops_low_bits :
    look 0x37010000 (fun t => (t.pc, t.fault)) (start |> x 1 0x0017) =
      some (5, none) := by decide

theorem test_jmp_never_negative :
    look 0x37010000 (fun t => (t.pc, t.fault)) (start |> x 1 0xFFFF) =
      some (16383, none) := by decide

theorem test_jsr :
    look 0x3800000A (fun t => (t.scalar 14, t.pc, t.ccw)) (start |> at' 4) =
      some (0x0014, 15, false) := by decide

theorem test_jsr_backwards :
    look 0x3800FFFB (fun t => (t.scalar 14, t.pc)) (start |> x 14 0xAAAA |> at' 4) =
      some (0x0014, 0) := by decide

theorem test_jsrr :
    look 0x39030000 (fun t => (t.scalar 14, t.pc)) (start |> x 3 0x0040 |> at' 7) =
      some (0x0020, 16) := by decide

theorem test_jsrr_link_register :
    look 0x390E0000 (fun t => (t.fault, t.scalar 14, t.pc)) (start |> x 14 0x0040 |> at' 7) =
      some (some ⟨.unpredictableOperand, 14⟩, 0x0040, 7) := by decide

theorem test_halt :
    look 0x40000000 (fun t => (t.halted, t.pc, t.cc)) (start |> flag .N |> at' 6) =
      some (true, 7, .N) := by decide

/-- T7: the unrecognized opcode FF at word index 2. -/
theorem test_nop :
    look 0xFF123456 (fun t => (t.pc, t.fault)) (start |> at' 2) = some (3, none) ∧
      unknownOpcode (withNextWord (start |> at' 2) 0xFF123456) = some 0xFF := by decide

/-- R221: an index that does not exist, under smaller register files (worked out from R24, R31, R226). -/
theorem test_vector_index_fault :
    look 0x04010203 faultOf { start with cfg := { nvreg := 2 } } = some (some ⟨.vectorIndexOutOfRange, 2⟩) ∧
      look 0x00F10200 faultOf { start with cfg := { nsreg := 14, pcIdx := 0, lrIdx := 1 } } =
        some (some ⟨.scalarIndexOutOfRange, 15⟩) := by decide

/-- P4: the same two programs under RESET_REGS = zero. -/
theorem test_zero_reset_reads :
    look 0x00010200 (fun t => (t.scalar 0, t.cc, t.fault)) State.reset = some (0, .Z, none) ∧
      look 0x31000001 (fun t => (t.pc, t.fault)) State.reset = some (1, none) := by decide

/-- P4, the empty program. -/
theorem test_empty_program :
    step State.reset = .next { State.reset with fault := some ⟨.pcOutOfRange, 0⟩ } := by rfl

/-- R190: no step from a halted or a faulted state. -/
theorem test_no_step_after_halt_or_fault :
    step { start with halted := true } = .fault .halted ∧
      step { start with fault := some ⟨.memOutOfRange, -1⟩ } = .fault (.faulted ⟨.memOutOfRange, -1⟩) := by
  and_intros <;> first | decide | rfl

/-- The host's placement runs exactly the placed instruction. -/
theorem test_withFetchWord :
    step (State.reset.withFetchWord 32 0x0801FFFF) =
      exec (.moviD 1 0xFFFF) (State.reset.withFetchWord 32 0x0801FFFF) := by rfl

/-- R51, R28, R40: what the snapshot shows of the T7 branch (bit positions worked out from R28 and R40). -/
theorem test_snapshot :
    (snapshot (withNextWord (start |> at' 10 |> flag .Z) 0x31000002) (start |> at' 13 |> flag .Z)).currentOpcode =
        some 0x31 ∧
      (snapshot start (start |> at' 13 |> flag .N)).cc = 4 ∧
      (snapshot start (start |> at' 13)).scalars[15]? = some 13 ∧
      (snapshot start (start |> at' 13)).nextPcBytes = 52 ∧
      gsrBits ⟨true, false, false, true⟩ = 9 := by decide

/-! ### Witnesses: the hypotheses of each statement can be met, clause by clause, at the ends of the ranges -/

/-- A running state whose next word is `iw`, every register readable (`RESET_REGS = zero`). -/
def ready (iw : IWord) : State := withNextWord State.reset iw

/-- The state that a `next` answer holds; the reset state for any other answer. -/
def nextOf (r : Result) : State :=
  match r with
  | .next t => t
  | _ => State.reset

/-- Another injective opcode map: the values of ADD_D and HALT exchanged. -/
def otherOpc : Opc := { addD := 0x40, halt := 0x00 }

theorem witness_DecodeOfEncode :
    Opc.Injective {} ∧ otherOpc.Injective ∧ otherOpc ≠ {} := by decide

theorem witness_EncodeOfDecode :
    decode {} 0x04D5E6E7 = .instr (.vadd 21 38 39) ∧ decode otherOpc 0x00ABCDEF = .instr .halt := by decide

theorem witness_IgnoredBitsChangeNothing :
    decode {} 0x00ABCDEF = .instr (.addD 10 11 13) ∧ (0x00AB0D00 : IWord) ≠ 0x00ABCDEF ∧
      (0x00AB0D00 : IWord) &&& Mnem.usedBits .addD = 0x00ABCDEF &&& Mnem.usedBits .addD := by decide

theorem witness_UnrecognizedOpcodes :
    decode {} 0x14000000 = .nop 0x14 ∧ decode {} 0x1F000000 = .nop 0x1F ∧ decode {} 0x28000000 = .nop 0x28 ∧
      decode {} 0x2F000000 = .nop 0x2F ∧ decode {} 0x3A000000 = .nop 0x3A ∧ decode {} 0x3F000000 = .nop 0x3F ∧
      decode {} 0x41000000 = .nop 0x41 ∧ decode {} 0xFF000000 = .nop 0xFF ∧ decode {} 0x40000000 = .instr .halt :=
          by decide

theorem witness_StepRunsDecoded :
    Running (ready 0x40000000) ∧ 0 ≤ (ready 0x40000000).pc ∧
      (ready 0x40000000).prog[(ready 0x40000000).pc.toNat]? = some 0x40000000 ∧
      decode (ready 0x40000000).cfg.opc 0x40000000 = .instr .halt := by decide

theorem witness_StepUnknownOpcode :
    Running (ready 0x41000000) ∧ 0 ≤ (ready 0x41000000).pc ∧
      (ready 0x41000000).prog[(ready 0x41000000).pc.toNat]? = some 0x41000000 ∧
      decode (ready 0x41000000).cfg.opc 0x41000000 = .nop 0x41 := by decide

theorem witness_FetchOutsideProgramFaults :
    (Running (start |> at' (-1)) ∧ (start |> at' (-1)).pc < 0) ∧
      (Running ((ready 0).setPc 1) ∧ (((ready 0).setPc 1).prog.length : Int) ≤ ((ready 0).setPc 1).pc) := by decide

theorem witness_BootAdmitsOrRefuses :
    (Config.specDefault.Valid ∧ (List.replicate 16383 (0 : IWord)).length ≤ 16383) ∧
      (Config.specDefault.Valid ∧ 16383 < (List.replicate 16384 (0 : IWord)).length) ∧ ¬Config.Valid
          { nsreg := 2 } := by
  refine ⟨⟨?_, ?_⟩, ⟨?_, ?_⟩, ?_⟩
  · decide
  · rw [List.length_replicate]
  · decide
  · rw [List.length_replicate]; decide
  · decide

theorem witness_ResetValues :
    start = State.resetWith Config.specDefault [] PowerOn.zero ∧
      Config.specDefault.resetRegs = .undefined ∧ Config.atReset.resetRegs = .zero := by decide

theorem witness_HaltEndsTheRun :
    Running State.reset ∧ exec .halt State.reset = .next (nextOf (exec .halt State.reset)) := by
  and_intros <;> first | decide | rfl

theorem witness_ExecTakesFirstFault :
    expectedFault start (.addD 0 1 15) = some ⟨.reservedRegister, 15⟩ ∧
      expectedFault start (.addD 0 1 2) = some ⟨.undefinedRead, 1⟩ ∧
      expectedFault (start |> x 2 0) (.ldb 1 2 0xFFFF) = some ⟨.memOutOfRange, -1⟩ ∧
      expectedFault (start |> x 2 0xFFFF) (.ldb 1 2 0) = none ∧ expectedFault start .halt = none := by decide

theorem witness_FaultsArePrecise :
    Running State.reset ∧ step State.reset = .next (nextOf (step State.reset)) ∧
      (nextOf (step State.reset)).fault = some ⟨.pcOutOfRange, 0⟩ := by
  and_intros <;> first | decide | rfl

theorem witness_ZeroResetNeverUndefinedRead :
    Running (ready 0x070F0000) ∧ (ready 0x070F0000).cfg.resetRegs = .zero ∧
      step (ready 0x070F0000) = .next (nextOf (step (ready 0x070F0000))) ∧
      (nextOf (step (ready 0x070F0000))).fault = some ⟨.reservedRegister, 15⟩ := by
  and_intros <;> first | decide | rfl

theorem witness_WellFormedFaultCauses :
    start.fault = none ∧ (Instr.mov 1 2).WellFormed start.cfg ∧
      exec (.mov 1 2) start = .next (nextOf (exec (.mov 1 2) start)) ∧
      (nextOf (exec (.mov 1 2) start)).fault = some ⟨.undefinedRead, 2⟩ ∧
      (Instr.ldb 1 2 0xFFFF).WellFormed (start |> x 2 0).cfg ∧
      (nextOf (exec (.ldb 1 2 0xFFFF) (start |> x 2 0))).fault = some ⟨.memOutOfRange, -1⟩ := by
  and_intros <;> first | decide | rfl

/-- For AddRegistersSum, AddImmediateSum, AndResult, MoveRegisterResult, MoveImmediateResult, CompareResult,
LaneWriteResult and JumpResult: operands at both ends of the register file, readable because written and because
`RESET_REGS = zero`. -/
theorem witness_scalar_operands :
    start.cfg.NamesScalar 0 ∧ start.cfg.NamesScalar 14 ∧ ScalarReadable (start |> x 0 7) 0 ∧
      ScalarReadable (start |> x 14 7) 14 ∧ ScalarReadable State.reset 0 ∧ ScalarReadable State.reset 14 := by
          decide

/-- For VectorAddResult, VectorMoveResult, VectorBroadcastResult and LaneWriteResult. -/
theorem witness_vector_operands :
    start.cfg.NamesVector 0 ∧ start.cfg.NamesVector 63 ∧ VectorReadable (start |> v 63 1 2 3 4) 63 ∧
      VectorReadable State.reset 0 := by decide

/-- For SetVertexResult, SetColorResult and TranslateResult. -/
theorem witness_lane_operands :
    start.cfg.NamesVector 1 ∧ (start |> v 1 1 2 3 4).LaneDefined 1 0 ∧ (start |> lane 1 1 5).LaneDefined 1 1 ∧
      (start |> v 1 1 2 3 4).LaneDefined 1 2 ∧ (start |> v 1 1 2 3 4).LaneDefined 1 3 := by decide

/-- The last and the first byte of memory. -/
theorem witness_LoadByteResult :
    State.reset.cfg.NamesScalar 14 ∧ ScalarReadable (State.reset |> x 2 0xFFFF) 2 ∧
      State.InMemory (State.reset |> x 2 0xFFFF) (accessAddress (State.reset |> x 2 0xFFFF) 2 0) 1 ∧
      State.InMemory State.reset (accessAddress State.reset 2 0) 1 := by decide

/-- The last and the first word of memory. -/
theorem witness_LoadWordResult :
    State.reset.cfg.NamesScalar 14 ∧ ScalarReadable (State.reset |> x 2 0xFFFF) 2 ∧
      State.InMemory (State.reset |> x 2 0xFFFF) (accessAddress (State.reset |> x 2 0xFFFF) 2 0xFFFF) 2 ∧
      State.InMemory State.reset (accessAddress State.reset 2 0) 2 := by decide

theorem witness_StoreByteResult :
    (State.reset |> x 2 0xFFFF).mem.WF ∧ ScalarReadable (State.reset |> x 2 0xFFFF) 1 ∧
      ScalarReadable (State.reset |> x 2 0xFFFF) 2 ∧
      State.InMemory (State.reset |> x 2 0xFFFF) (accessAddress (State.reset |> x 2 0xFFFF) 2 0) 1 := by decide

theorem witness_StoreWordResult :
    (State.reset |> m 0x0200 0x11 |> x 2 0x0200).mem.WF ∧ ScalarReadable
        (State.reset |> m 0x0200 0x11 |> x 2 0x0200) 1 ∧
      ScalarReadable (State.reset |> m 0x0200 0x11 |> x 2 0x0200) 2 ∧
      State.InMemory (State.reset |> m 0x0200 0x11 |> x 2 0x0200)
        (accessAddress (State.reset |> m 0x0200 0x11 |> x 2 0x0200) 2 0) 2 := by decide

/-- The addresses on either side of both ends, for one byte and for two. -/
theorem witness_AccessRangeCheck :
    ScalarReadable (State.reset |> x 2 0xFFFF) 2 ∧ ScalarReadable (State.reset |> x 2 0xFFFF) 1 ∧
      State.reset.cfg.NamesScalar 1 ∧ accessAddress (State.reset |> x 2 0xFFFF) 2 0 = 65535 ∧
      accessAddress (State.reset |> x 2 0xFFFF) 2 0xFFFF = 65534 ∧
      accessAddress (State.reset |> x 2 0xFFFF) 2 1 = 65536 ∧ accessAddress State.reset 2 0xFFFF = -1 := by decide

theorem witness_StoreThenLoadLittleEndian :
    (State.reset |> x 1 0x1234).mem.WF ∧ ScalarReadable (State.reset |> x 1 0x1234) 1 ∧
      ScalarReadable (State.reset |> x 1 0x1234) 2 ∧
      State.InMemory (State.reset |> x 1 0x1234) (accessAddress (State.reset |> x 1 0x1234) 2 0) 2 ∧
      State.reset.cfg.NamesScalar 3 ∧ ScalarReadable (nextOf (exec (.stw 1 2 0) (State.reset |> x 1 0x1234))) 2 ∧
      accessAddress (nextOf (exec (.stw 1 2 0) (State.reset |> x 1 0x1234))) 2 0 = 0 ∧
      accessAddress (nextOf (exec (.stw 1 2 0) (State.reset |> x 1 0x1234))) 2 1 = 0 + 1 := by decide

theorem witness_ConditionalBranchResult :
    (start |> flag .N).CCDefined ∧ (start |> flag .N).cc ∈ [CC.N] ∧ (start |> flag .Z).CCDefined ∧
      (start |> flag .Z).cc ∉ [CC.N, CC.P] ∧ State.reset.CCDefined ∧ State.reset.cc ∉ [CC.Z, CC.P] := by decide

theorem witness_CallRegisterResult :
    ScalarReadable (start |> x 3 0x0040) 3 ∧ (3 : SIdx) ≠ start.cfg.lrIdx ∧ start.cfg.NamesScalar 14 ∧
      (14 : SIdx) = start.cfg.lrIdx := by decide

theorem witness_CallThenReturn :
    0 ≤ (State.reset |> at' 16382).pc ∧ (State.reset |> at' 16382).pc < 16383 ∧
      State.reset.cfg.NamesScalar State.reset.cfg.lrIdx ∧
      exec (.jsr 0) (State.reset |> at' 16382) = .next (nextOf (exec (.jsr 0) (State.reset |> at' 16382))) ∧
      ScalarReadable State.reset 3 ∧ (3 : SIdx) ≠ State.reset.cfg.lrIdx ∧
      exec (.jsrr 3) State.reset = .next (nextOf (exec (.jsrr 3) State.reset)) := by
  and_intros <;> first | decide | rfl

theorem witness_ResetMeetsInvariant :
    Config.specDefault.Valid ∧ (List.replicate 16383 (0 : IWord)).length ≤ 16383 := by
  refine ⟨?_, ?_⟩
  · decide
  · rw [List.length_replicate]

theorem witness_StepKeepsInvariant :
    StateInv (ready 0x13120000) ∧ step (ready 0x13120000) = .next (nextOf (step (ready 0x13120000))) := by
  refine ⟨⟨?_, ?_, ?_, ?_, ?_, ?_, ?_⟩, ?_⟩ <;> first | decide | rfl

theorem witness_StepKeepsProgram :
    step (ready 0x13120000) = .next (nextOf (step (ready 0x13120000))) := by rfl

theorem witness_OnlyStoresWriteMemory :
    exec (.ldw 1 2 0) State.reset = .next (nextOf (exec (.ldw 1 2 0) State.reset)) ∧
      (Instr.ldw 1 2 0).mnem ∉ memoryWriters := by
  and_intros <;> first | decide | rfl

theorem witness_OnlyFlagWritersWriteCC :
    exec (.vmovi 1 0) State.reset = .next (nextOf (exec (.vmovi 1 0) State.reset)) ∧ State.reset.fault = none ∧
      (Instr.vmovi 1 0).mnem ∉ flagWriters ∧ (Instr.cmp 1 2).mnem ∈ flagWriters ∧
      exec (.cmp 1 2) State.reset = .next (nextOf (exec (.cmp 1 2) State.reset)) ∧
      (nextOf (exec (.cmp 1 2) State.reset)).fault = none := by
  and_intros <;> first | decide | rfl

theorem witness_RegistersWrittenByTable :
    exec (.jsr 5) State.reset = .next (nextOf (exec (.jsr 5) State.reset)) ∧ State.reset.cfg.Valid := by
  and_intros <;> first | decide | rfl

theorem witness_OnlyListedWritersOfGpuAndHalt :
    exec (.cmp 1 2) State.reset = .next (nextOf (exec (.cmp 1 2) State.reset)) ∧ (Instr.cmp 1 2).mnem ≠ .setvertex ∧
      (Instr.cmp 1 2).mnem ∉ vertexWriters ∧ (Instr.cmp 1 2).mnem ∉ gsrWriters ∧ (Instr.cmp 1 2).mnem ≠ .halt := by
  and_intros <;> first | decide | rfl

theorem witness_WrittenMarksStay :
    step (ready 0x40000000 |> x 3 7 |> v 4 1 2 3 4 |> flag .P) =
        .next (nextOf (step (ready 0x40000000 |> x 3 7 |> v 4 1 2 3 4 |> flag .P))) ∧
      (ready 0x40000000 |> x 3 7 |> v 4 1 2 3 4 |> flag .P).scalarWritten 3 = true ∧
      ((ready 0x40000000 |> x 3 7 |> v 4 1 2 3 4 |> flag .P).vectorWritten 4).get 3 = true ∧
      (ready 0x40000000 |> x 3 7 |> v 4 1 2 3 4 |> flag .P).ccw = true := by
  and_intros <;> first | decide | rfl

theorem witness_UnwrittenHoldsResetValue :
    UnwrittenHoldsZero (ready 0x0801FFFF) ∧ (ready 0x0801FFFF).cfg.resetRegs = .zero ∧
      step (ready 0x0801FFFF) = .next (nextOf (step (ready 0x0801FFFF))) := by
  refine ⟨fun _ => ⟨?_, ?_, ?_⟩, ?_, ?_⟩ <;> first | decide +kernel | rfl

theorem witness_RecodedProgramRunsAlike :
    otherOpc.Injective ∧
      (∀ iw ∈ (ready 0x40000000).prog, ∃ i, decode (ready 0x40000000).cfg.opc iw = .instr i) ∧
      step (ready 0x40000000) = .next (nextOf (step (ready 0x40000000))) := by
  refine ⟨by decide, fun iw h => ⟨.halt, ?_⟩, rfl⟩
  rw [List.mem_singleton.1 h]
  decide

theorem witness_SnapshotShowsState :
    0 ≤ (ready 0x40000000).pc ∧ (ready 0x40000000).prog[(ready 0x40000000).pc.toNat]? = some 0x40000000 ∧
      (0 : SIdx).toNat < State.reset.cfg.nsreg ∧ (15 : SIdx).toNat < State.reset.cfg.nsreg ∧
      15 = State.reset.cfg.pcIdx ∧ (0 : VIdx).toNat < State.reset.cfg.nvreg ∧
      (63 : VIdx).toNat < State.reset.cfg.nvreg ∧ State.reset.cfg.Valid := by decide

theorem witness_RealToFixedTruncates :
    (16 : Real) * (3 / 2) = ((24 : Int) : Real) := by norm_num

end Sys2Proof.Tests
end

section
/-! PROOFS. 00_scope.md: the normal end of a run (R19). -/

namespace Sys2Proof.Machine

/-! ### HALT, and the step of a halted state -/

/-- HALT has no check, so it completes in every state (46_control_flow.md R214). -/
theorem exec_halt (s : State) : exec .halt s = .next (s.setHalted.setPc (s.pc + 1)) := rfl

/-- The halt flag decides alone, before the fault register (46_control_flow.md R190, log 5). -/
theorem stopReason_of_halted {s : State} (h : s.halted = true) : stopReason s = some .halted := if_pos h

theorem step_of_stopReason {s : State} {r : Fault} (h : stopReason s = some r) : step s = .fault r := by
  simp only [step, h]

/-- Settles O12: HALT sets the halt flag and keeps the fault register, and a halted state has no step. -/
theorem haltEndsTheRun : Obligations.HaltEndsTheRun := by
  unfold Obligations.HaltEndsTheRun
  intro s t ⟨_, hfault⟩ hexec
  obtain rfl : s.setHalted.setPc (s.pc + 1) = t := by simpa only [exec_halt, Host.Outcome.next.injEq] using hexec
  have hhalted : (s.setHalted.setPc (s.pc + 1)).halted = true := by simp
  have hnone : (s.setHalted.setPc (s.pc + 1)).fault = none := by simp [hfault]
  exact ⟨⟨hhalted, hnone⟩, by simp, step_of_stopReason (stopReason_of_halted hhalted)⟩

end Sys2Proof.Machine
end

section
/-! PROOFS. What one instruction, and one step, can write: the inversion lemmas from which the invariants and the
noninterference statements of 10_state.md follow. -/

namespace Sys2Proof.Machine

variable {s t : State}

/-! ### What an instruction that completes writes -/

/-- `Writes s i u`: the instruction `i`, completing in `s`, leaves `u` but for the advance of `pc`. One constructor
per shape of write, with what the tables of 10_state.md (R25, R29, R32, R35, R40, R42) say of its writer. -/
inductive Writes (s : State) : Instr → State → Prop
  /-- A scalar result with its flags; the destination has passed the checks of R24. -/
  | result {i : Instr} {d : SIdx} (r : Raw16) (hdest : scalarDestination s.cfg i = some d)
      (hname : s.cfg.NamesScalar d) (hflags : i.mnem ∈ flagWriters := by simp [Instr.mnem, flagWriters]) :
      Writes s i ((s.writeScalar d r).setCCResult r)
  | comparison {i : Instr} (a b : Int) (hflags : i.mnem ∈ flagWriters := by simp [Instr.mnem, flagWriters]) :
      Writes s i (s.setCC a b)
  | register {i : Instr} {vd : VIdx} (l : Lanes Raw16) (hdest : vectorDestination i = some vd)
      (hflags : i.mnem ∉ flagWriters := by simp [Instr.mnem, flagWriters]) :
      Writes s i (s.writeVector vd l)
  | lane {i : Instr} {vd : VIdx} (k : LaneIdx) (val : Raw16) (hdest : vectorDestination i = some vd)
      (hflags : i.mnem ∉ flagWriters := by simp [Instr.mnem, flagWriters]) :
      Writes s i (s.writeLane vd k val)
  | byte {d s1 : SIdx} {imm : Raw16} {ea : Int} (w : Byte) (hin : s.InMemory ea 1) :
      Writes s (.stb d s1 imm) (s.setByte ea.toNat w)
  | word {d s1 : SIdx} {imm : Raw16} {ea : Int} (low high : Byte) (hin : s.InMemory ea 2) :
      Writes s (.stw d s1 imm) ((s.setByte ea.toNat low).setByte (ea.toNat + 1) high)
  | position {vd : VIdx} (w : Vertex) :
      Writes s (.setvertex vd) ((s.writeVertex s.cur w).setCur (s.cur + 1))
  | color {vd : VIdx} (w : Vertex) : Writes s (.setcolor vd) (s.writeVertex 0 w)
  | positions {vd : VIdx} (f : Vertex → Vertex) : Writes s (.translate vd) (s.mapVertices f)
  | primitive (prim : PrimSel) :
      Writes s (.beginprimitive prim) (s.setGsr { s.gsr with TRIANGLE := prim != 0, LINE := prim == 0 })
  | flush : Writes s .flush (s.setGsr { s.gsr with FLUSH := true, DRAW := false })
  | draw : Writes s .draw (s.setGsr { s.gsr with DRAW := true, FLUSH := false })
  | link {i : Instr} (hdest : scalarDestination s.cfg i = some s.cfg.lrIdx)
      (hflags : i.mnem ∉ flagWriters := by simp [Instr.mnem, flagWriters]) :
      Writes s i (s.writeScalar s.cfg.lrIdx (linkValue s.pc))
  | halt : Writes s .halt s.setHalted
  | nothing {i : Instr} (hflags : i.mnem ∉ flagWriters := by simp [Instr.mnem, flagWriters]) : Writes s i s

/-- The values of `pc` an instruction at word index `k` can leave (46_control_flow.md R191, R192). -/
inductive PcAfter (k : Int) : Int → Prop
  | next : PcAfter k (k + 1)
  | relative (imm : Raw16) : PcAfter k (k + 1 + s16 imm)
  | register (a : Raw16) : PcAfter k (byteToWordIndex a)

/-- The instruction `i`, completing in `s`, can leave `t`: some writes, then the advance of `pc`. -/
def Completes (s : State) (i : Instr) (t : State) : Prop :=
  ∃ u n, Writes s i u ∧ PcAfter s.pc n ∧ t = u.setPc n

/-- An instruction that writes and falls through. -/
theorem Writes.completes {i : Instr} {u : State} (h : Writes s i u) : Completes s i (u.setPc (s.pc + 1)) :=
  ⟨u, _, h, .next, rfl⟩

/-- An instruction that records a fault, or has some writes and falls through. -/
theorem fallThrough_cases {i : Instr} {u : State}
    (h : (∃ f, t = s.takeFault f) ∨ t = u.setPc (s.pc + 1)) (hw : Writes s i u) :
    (∃ f, t = s.takeFault f) ∨ Completes s i t := by
  refine h.imp_right ?_
  rintro rfl
  exact hw.completes

/-- An instruction whose first check is that of `d` records a fault unless `d` passes it. -/
theorem retire_checkScalar_cases {d : SIdx} {g : Unit → Except FaultRecord (State × Disposition)}
    (h : retire s (s.checkScalar d >>= g) = .next t) : (∃ f, t = s.takeFault f) ∨ s.cfg.NamesScalar d := by
  rcases retire_cases h with ⟨f, _, rfl⟩ | ⟨_, _, hok, _⟩
  · exact .inl ⟨f, rfl⟩
  · obtain ⟨_, hcheck, _⟩ := except_bind_eq_ok hok
    exact .inr (State.checkScalar_eq_ok_iff.1 hcheck)

/-- The form of the instructions that write a scalar register and the flags: the check of the destination comes
first, so the reserved index is never written (10_state.md R24, decision D6). -/
theorem result_cases {i : Instr} {d : SIdx} {r : Raw16} {g : Unit → Except FaultRecord (State × Disposition)}
    (h : exec i s = .next t) (hcheck : exec i s = retire s (s.checkScalar d >>= g))
    (hcases : (∃ f, t = s.takeFault f) ∨ t = ((s.writeScalar d r).setCCResult r).setPc (s.pc + 1))
    (hdest : scalarDestination s.cfg i = some d)
    (hflags : i.mnem ∈ flagWriters := by simp [Instr.mnem, flagWriters]) :
    (∃ f, t = s.takeFault f) ∨ Completes s i t := by
  rcases hcases with hfault | rfl
  · exact .inl hfault
  · exact (retire_checkScalar_cases (hcheck ▸ h)).imp_right fun hname =>
      (Writes.result r hdest hname hflags).completes

/-- A tested branch writes nothing but `pc`. -/
theorem branch_cases {T : List CC} {imm : Raw16} {i : Instr}
    (h : branchOn T imm s = .next t) (hflags : i.mnem ∉ flagWriters := by simp [Instr.mnem, flagWriters]) :
    (∃ f, t = s.takeFault f) ∨ Completes s i t := by
  refine (branchOn_cases h).imp_right ?_
  rintro ⟨n, rfl, rfl | rfl⟩
  · exact ⟨s, _, .nothing hflags, .relative imm, rfl⟩
  · exact (Writes.nothing hflags).completes

/-- All an instruction can do: record a fault, or complete. -/
theorem exec_cases {i : Instr} (h : exec i s = .next t) : (∃ f, t = s.takeFault f) ∨ Completes s i t := by
  cases i with
  | addD d s1 s2 => exact result_cases h rfl (execAddD_cases h) rfl
  | addF d s1 s2 => exact result_cases h rfl (execAddF_cases h) rfl
  | addiD d s1 imm => exact result_cases h rfl (execAddiD_cases h) rfl
  | addiF d s1 imm => exact result_cases h rfl (execAddiF_cases h) rfl
  | andD d s1 s2 => exact result_cases h rfl (execAndD_cases h) rfl
  | andiD d s1 imm => exact result_cases h rfl (execAndiD_cases h) rfl
  | mov md ms => exact result_cases h rfl (execMov_cases h) rfl
  | moviD md imm => exact result_cases h rfl (execMoviD_cases h) rfl
  | moviF md imm => exact result_cases h rfl (execMoviF_cases h) rfl
  | ldb d s1 imm => exact result_cases h rfl ((execLdb_cases h).imp_right And.right) rfl
  | ldw d s1 imm => exact result_cases h rfl ((execLdw_cases h).imp_right And.right) rfl
  | cmp s1 s2 => exact fallThrough_cases (execCmp_cases h) (.comparison _ _)
  | cmpi s1 imm => exact fallThrough_cases (execCmpi_cases h) (.comparison _ _)
  | vadd vd vs1 vs2 => exact fallThrough_cases (execVadd_cases h) (.register _ rfl)
  | vmov vd vs1 => exact fallThrough_cases (execVmov_cases h) (.register _ rfl)
  | vmovi vd imm => exact fallThrough_cases (execVmovi_cases h) (.register _ rfl)
  | vcompmov lane vd s2 => exact fallThrough_cases (execVcompmov_cases h) (.lane _ _ rfl)
  | vcompmovi lane vd imm => exact fallThrough_cases (execVcompmovi_cases h) (.lane _ _ rfl)
  | stb d s1 imm =>
    refine (execStb_cases h).imp_right ?_
    rintro ⟨hin, rfl⟩
    exact (Writes.byte _ hin).completes
  | stw d s1 imm =>
    refine (execStw_cases h).imp_right ?_
    rintro ⟨hin, rfl⟩
    exact (Writes.word _ _ hin).completes
  | setvertex vd => exact fallThrough_cases (execSetvertex_cases h) (.position _)
  | setcolor vd => exact fallThrough_cases (execSetcolor_cases h) (.color _)
  | translate vd => exact fallThrough_cases (execTranslate_cases h) (.positions _)
  | jmp s1 =>
    refine (execJmp_cases h).imp_right ?_
    rintro rfl
    exact ⟨s, _, .nothing, .register _, rfl⟩
  | jsrr s1 =>
    refine (execJsrr_cases h).imp_right ?_
    rintro rfl
    exact ⟨_, _, .link rfl, .register _, rfl⟩
  | brn imm => exact branch_cases h
  | brz imm => exact branch_cases h
  | brp imm => exact branch_cases h
  | brnz imm => exact branch_cases h
  | brnp imm => exact branch_cases h
  | brzp imm => exact branch_cases h
  | brnzp imm =>
    cases h
    exact .inr ⟨s, _, .nothing, .relative imm, rfl⟩
  | jsr imm =>
    cases h
    exact .inr ⟨_, _, .link rfl, .relative imm, rfl⟩
  | rotate vd =>
    cases h
    exact .inr (Writes.completes .nothing)
  | scale vd =>
    cases h
    exact .inr (Writes.completes .nothing)
  | beginprimitive prim =>
    cases h
    exact .inr (Writes.completes (.primitive prim))
  | flush =>
    cases h
    exact .inr (Writes.completes .flush)
  | draw =>
    cases h
    exact .inr (Writes.completes .draw)
  | halt =>
    cases h
    exact .inr (Writes.completes .halt)

/-! ### What the writes leave unchanged -/

/-- Only SETVERTEX moves the cursor (10_state.md R36). -/
theorem Writes.cur_eq {i : Instr} {u : State} (h : Writes s i u) (hi : i.mnem ≠ .setvertex) : u.cur = s.cur := by
  cases h with
  | position w => exact absurd rfl hi
  | _ => rfl

/-- Only SETVERTEX, SETCOLOR and TRANSLATE write vertex slots (10_state.md R35). -/
theorem Writes.vertex_eq {i : Instr} {u : State} (h : Writes s i u) (hi : i.mnem ∉ vertexWriters) (n : Fin 3) :
    u.vertex n = s.vertex n := by
  cases h with
  | position w => simp [Instr.mnem, vertexWriters] at hi
  | color w => simp [Instr.mnem, vertexWriters] at hi
  | positions f => simp [Instr.mnem, vertexWriters] at hi
  | _ => rfl

/-- Only BEGINPRIMITIVE, FLUSH and DRAW write `gsr` (10_state.md R40). -/
theorem Writes.gsr_eq {i : Instr} {u : State} (h : Writes s i u) (hi : i.mnem ∉ gsrWriters) : u.gsr = s.gsr := by
  cases h with
  | primitive prim => simp [Instr.mnem, gsrWriters] at hi
  | flush => simp [Instr.mnem, gsrWriters] at hi
  | draw => simp [Instr.mnem, gsrWriters] at hi
  | _ => rfl

/-- Only HALT sets the halt flag (10_state.md R42). -/
theorem Writes.halted_eq {i : Instr} {u : State} (h : Writes s i u) (hi : i.mnem ≠ .halt) :
    u.halted = s.halted := by
  cases h with
  | halt => exact absurd rfl hi
  | _ => rfl

/-- Only the writers of R29's list write `cc` (10_state.md R29). -/
theorem Writes.keepsFlags {i : Instr} {u : State} (h : Writes s i u) (hi : i.mnem ∉ flagWriters) :
    KeepsFlags s u := by
  cases h with
  | result r hdest hname hflags => exact absurd hflags hi
  | comparison a b hflags => exact absurd hflags hi
  | _ => exact ⟨rfl, rfl⟩

/-- Every comparison sets one flag (40_numeric.md R124). -/
theorem compareFlag_ne_none (a b : Int) : compareFlag a b ≠ .none := by
  unfold compareFlag
  split
  · simp
  · split <;> simp

/-- Each of R29's writers sets exactly one flag (10_state.md R28, R29). -/
theorem Writes.setsFlag {i : Instr} {u : State} (h : Writes s i u) (hi : i.mnem ∈ flagWriters) :
    u.ccw = true ∧ u.cc ≠ .none := by
  cases h with
  | result r => exact ⟨rfl, compareFlag_ne_none _ _⟩
  | comparison a b => exact ⟨rfl, compareFlag_ne_none _ _⟩
  | register l hdest hflags => exact absurd hi hflags
  | lane k val hdest hflags => exact absurd hi hflags
  | link hdest hflags => exact absurd hi hflags
  | nothing hflags => exact absurd hi hflags
  | _ => simp [Instr.mnem, flagWriters] at hi

/-- A scalar register that is not the one of R25's table keeps its content and its mark. -/
theorem Writes.keepsScalarsBut {i : Instr} {u : State} (h : Writes s i u) :
    KeepsScalarsBut (fun r => scalarDestination s.cfg i = some r) s u := by
  intro r hr
  cases h with
  | result val hdest =>
    have hne : r ≠ _ := fun e => hr (e ▸ hdest)
    exact ⟨State.scalar_writeScalar_other s val hne, State.scalarWritten_writeScalar_other s val hne⟩
  | link hdest =>
    have hne : r ≠ _ := fun e => hr (e ▸ hdest)
    exact ⟨State.scalar_writeScalar_other s _ hne, State.scalarWritten_writeScalar_other s _ hne⟩
  | _ => exact ⟨rfl, rfl⟩

/-- A vector register that is not the one of R32's table keeps its content and its marks. -/
theorem Writes.keepsVectorsBut {i : Instr} {u : State} (h : Writes s i u) :
    KeepsVectorsBut (fun r => vectorDestination i = some r) s u := by
  intro r hr
  cases h with
  | register l hdest =>
    have hne : r ≠ _ := fun e => hr (e ▸ hdest)
    exact ⟨State.vector_writeVector_other s l hne, State.vectorWritten_writeVector_other s l hne⟩
  | lane k val hdest =>
    have hne : r ≠ _ := fun e => hr (e ▸ hdest)
    exact ⟨State.vector_writeLane_other s k val hne, State.vectorWritten_writeLane_other s k val hne⟩
  | _ => exact ⟨rfl, rfl⟩

/-- Under admitted parameters the reserved index is not the link register, and no other writer names it
(00_scope.md R8, 10_state.md R24, decision D6). -/
theorem Writes.scalar_pcIdx {i : Instr} {u : State} (h : Writes s i u) (hcfg : s.cfg.Valid) :
    u.scalar s.cfg.pcIdx = s.scalar s.cfg.pcIdx := by
  obtain ⟨-, -, -, -, -, hlink, -⟩ := hcfg
  cases h with
  | result r hdest hname => exact State.scalar_writeScalar_other s r hname.2.symm
  | link => exact State.scalar_writeScalar_other s _ hlink.symm
  | _ => rfl

/-! ### What a step can do -/

/-- A word is fetched exactly from inside the program (46_control_flow.md R191). -/
theorem programWord_bounds {prog : List IWord} {k : Int} {iw : IWord} (h : programWord prog k = some iw) :
    0 ≤ k ∧ k < prog.length := by
  unfold programWord at h
  split at h
  · cases h
  · have hlt : k.toNat < prog.length := (List.getElem?_eq_some_iff.1 h).1
    omega

theorem fetch_ok_bounds {iw : IWord} (h : fetch s = .ok iw) : 0 ≤ s.pc ∧ s.pc < s.prog.length := by
  unfold fetch at h
  split at h
  · exact programWord_bounds ‹_›
  · cases h

theorem step_of_running (h : stopReason s = none) : step s = stepRunning s := by simp only [step, h]

theorem stepRunning_of_fetch_error {f : FaultRecord} (h : fetch s = .error f) :
    stepRunning s = .next (s.takeFault f) := by simp only [stepRunning, h]

theorem stepRunning_of_fetch_ok {iw : IWord} (h : fetch s = .ok iw) :
    stepRunning s = execDecoded (decode s.cfg.opc iw) s := by simp only [stepRunning, h]

/-- All a decoded word can do: an unrecognized opcode only advances `pc`, an instruction does what `exec_cases`
says (46_control_flow.md R191, R215). -/
theorem execDecoded_cases {d : Decoded} (h : execDecoded d s = .next t) :
    (∃ f, t = s.takeFault f) ∨ t = s.setPc (s.pc + 1) ∨ ∃ i, Completes s i t := by
  cases d with
  | instr i => exact (exec_cases h).imp_right fun hc => .inr ⟨i, hc⟩
  | nop op =>
    cases h
    exact .inr (.inl rfl)

/-- All a step can do: record a fault, or run the word at `pc`, which is then inside the program. -/
theorem step_cases (h : step s = .next t) :
    (∃ f, t = s.takeFault f) ∨
      (0 ≤ s.pc ∧ s.pc < s.prog.length) ∧ (t = s.setPc (s.pc + 1) ∨ ∃ i, Completes s i t) := by
  cases hstop : stopReason s with
  | some r =>
    rw [step_of_stopReason hstop] at h
    cases h
  | none =>
    rw [step_of_running hstop] at h
    cases hfetch : fetch s with
    | error f =>
      rw [stepRunning_of_fetch_error hfetch] at h
      cases h
      exact .inl ⟨f, rfl⟩
    | ok iw =>
      rw [stepRunning_of_fetch_ok hfetch] at h
      exact (execDecoded_cases h).imp_right fun hrun => ⟨fetch_ok_bounds hfetch, hrun⟩

/-- A step keeps what a recorded fault, the writes of each instruction and the advance of `pc` keep. -/
theorem step_keeps {P : State → Prop} (h : step s = .next t) (hs : P s) (hfault : ∀ f, P (s.takeFault f))
    (hwrite : ∀ i u, Writes s i u → P u)
    (hpc : ∀ u n, P u → 0 ≤ s.pc → s.pc < s.prog.length → PcAfter s.pc n → P (u.setPc n)) : P t := by
  rcases step_cases h with ⟨f, rfl⟩ | ⟨⟨hge, hlt⟩, rfl | ⟨i, u, n, hw, hn, rfl⟩⟩
  · exact hfault f
  · exact hpc s _ hs hge hlt .next
  · exact hpc u n (hwrite i u hw) hge hlt hn

end Sys2Proof.Machine
end

section
/-! PROOFS. 10_state.md: the invariant, who writes what, the marks, reset and the snapshot. -/

namespace Sys2Proof.Machine

variable {s t : State}

/-! ### The invariant (O46, O47) -/

/-- What reset leaves meets the invariant: no memory entry, no bit of `gsr`, an unwritten `cc`, `pc` at 0. -/
theorem stateInv_resetWith {c : Config} {prog : List IWord} (p : PowerOn) (hcfg : c.Valid)
    (hlen : prog.length ≤ maxProgramLength) : StateInv (State.resetWith c prog p) where
  admitted := ⟨hcfg, hlen⟩
  memCanonical := reset_mem_wf
  memInRange := fun _ hc => absurd hc List.not_mem_nil
  drawFlush := fun h => Bool.false_ne_true h.1
  lineTriangle := fun h => Bool.false_ne_true h.1
  oneFlag := fun h => absurd h Bool.false_ne_true
  pcBounds := show (-32767 : Int) ≤ 0 ∧ (0 : Int) ≤ 49150 by decide

/-- Settles O46: `State.reset` is one of the reset states, under R8's parameters. -/
theorem resetMeetsInvariant : Obligations.ResetMeetsInvariant := by
  unfold Obligations.ResetMeetsInvariant
  exact ⟨stateInv_resetWith PowerOn.zero (by decide) (by decide),
    fun _ _ p hcfg hlen => stateInv_resetWith p hcfg hlen⟩

theorem StateInv.takeFault (hs : StateInv s) (f : FaultRecord) : StateInv (s.takeFault f) :=
  { hs with }

theorem StateInv.setPc (hs : StateInv s) {n : Int} (hn : -32767 ≤ n ∧ n ≤ 49150) : StateInv (s.setPc n) :=
  { hs with pcBounds := hn }

/-- A byte written inside the data space keeps every entry inside it (20_memory.md R61, R65). -/
theorem Memory.write_inRange {m : Memory} {a size : Nat} (w : Byte) (hm : ∀ c ∈ m, c.1 < size) (ha : a < size) :
    ∀ c ∈ m.write a w, c.1 < size := by
  intro c hc
  rcases Memory.mem_write hc with ⟨rfl, _⟩ | hc
  · exact ha
  · exact hm c hc

theorem StateInv.setByte (hs : StateInv s) {a : Nat} (w : Byte) (ha : a < s.cfg.memsize) :
    StateInv (s.setByte a w) :=
  { hs with
    memCanonical := State.setByte_mem_wf hs.memCanonical a w
    memInRange := Memory.write_inRange w hs.memInRange ha }

theorem StateInv.writeScalar (hs : StateInv s) (d : SIdx) (r : Raw16) : StateInv (s.writeScalar d r) :=
  { hs with }

theorem StateInv.setCC (hs : StateInv s) (a b : Int) : StateInv (s.setCC a b) :=
  { hs with oneFlag := fun _ => compareFlag_ne_none a b }

theorem StateInv.setGsr (hs : StateInv s) {g : Gsr} (hdraw : ¬(g.DRAW = true ∧ g.FLUSH = true))
    (hline : ¬(g.LINE = true ∧ g.TRIANGLE = true)) : StateInv (s.setGsr g) :=
  { hs with drawFlush := hdraw, lineTriangle := hline }

/-- The writes of an instruction keep the invariant. -/
theorem StateInv.writes (hs : StateInv s) {i : Instr} {u : State} (h : Writes s i u) : StateInv u := by
  cases h with
  | result r => exact (hs.writeScalar _ r).setCC _ _
  | comparison a b => exact hs.setCC a b
  | byte w hin => exact hs.setByte w (by omega)
  | word low high hin => exact (hs.setByte low (by omega)).setByte high (show _ < s.cfg.memsize by omega)
  | primitive prim => exact hs.setGsr hs.drawFlush (by simp)
  | flush => exact hs.setGsr (by simp) hs.lineTriangle
  | draw => exact hs.setGsr (by simp) hs.lineTriangle
  | _ => exact { hs with }

/-- The next `pc` from a word index below 16383: a signed 16-bit offset at most, or a 14-bit word index
(46_control_flow.md R191). -/
theorem PcAfter.bounds {k n : Int} (h : PcAfter k n) (hge : 0 ≤ k) (hlt : k < 16383) : -32767 ≤ n ∧ n ≤ 49150 := by
  cases h with
  | next => omega
  | relative imm =>
    have hlow : -32768 ≤ s16 imm := BitVec.le_toInt imm
    have hhigh : s16 imm < 32768 := BitVec.toInt_lt
    omega
  | register a =>
    have : byteToWordIndex a < 65536 / 4 := by
      simp only [byteToWordIndex, BitVec.toNat_ushiftRight, Nat.shiftRight_eq_div_pow]
      omega
    omega

/-- Settles O47: the fetch bounds `pc` before the step, and the writes keep the rest. -/
theorem stepKeepsInvariant : Obligations.StepKeepsInvariant := by
  unfold Obligations.StepKeepsInvariant
  intro s t hs h
  refine step_keeps h hs hs.takeFault (fun _ _ hw => hs.writes hw) ?_
  intro u n hu hge hlt hn
  have hlen : s.prog.length ≤ 16383 := hs.admitted.2
  exact hu.setPc (hn.bounds hge (by omega))

/-! ### Who writes what (O50, O51, O52) -/

/-- Settles O50: a fault writes no flag, and the writes of each instruction are those of R29's list. -/
theorem onlyFlagWritersWriteCC : Obligations.OnlyFlagWritersWriteCC := by
  unfold Obligations.OnlyFlagWritersWriteCC
  intro i s t h _
  rcases exec_cases h with ⟨f, rfl⟩ | ⟨u, n, hw, -, rfl⟩
  · exact ⟨fun _ => ⟨rfl, rfl⟩, fun _ hnone => absurd hnone (by simp)⟩
  · exact ⟨hw.keepsFlags, fun hi _ => hw.setsFlag hi⟩

/-- Settles O51: each shape of write against the tables; a result's destination has passed its check. -/
theorem registersWrittenByTable : Obligations.RegistersWrittenByTable := by
  unfold Obligations.RegistersWrittenByTable
  intro i s t h
  rcases exec_cases h with ⟨f, rfl⟩ | ⟨u, n, hw, -, rfl⟩
  · exact ⟨fun _ _ => ⟨rfl, rfl⟩, fun _ _ => ⟨rfl, rfl⟩, fun _ => rfl⟩
  · exact ⟨hw.keepsScalarsBut, hw.keepsVectorsBut, hw.scalar_pcIdx⟩

/-- Settles O52: no shape of write but the listed ones touches those fields. -/
theorem onlyListedWritersOfGpuAndHalt : Obligations.OnlyListedWritersOfGpuAndHalt := by
  unfold Obligations.OnlyListedWritersOfGpuAndHalt
  intro i s t h
  rcases exec_cases h with ⟨f, rfl⟩ | ⟨u, n, hw, -, rfl⟩
  · exact ⟨fun _ => rfl, fun _ _ => rfl, fun _ => rfl, fun _ => rfl⟩
  · exact ⟨hw.cur_eq, hw.vertex_eq, hw.gsr_eq, hw.halted_eq⟩

/-! ### The marks of what has been written (O53) -/

/-- What is marked written in `s` is marked written in `t` (10_state.md R24, R28, R31). -/
structure MarksStay (s t : State) : Prop where
  scalars : ∀ r, s.scalarWritten r = true → t.scalarWritten r = true
  lanes : ∀ j k, (s.vectorWritten j).get k = true → (t.vectorWritten j).get k = true
  flags : s.ccw = true → t.ccw = true

theorem MarksStay.refl (s : State) : MarksStay s s := ⟨fun _ => id, fun _ _ => id, id⟩

/-- A scalar write marks its register and no other. -/
theorem State.scalarWritten_writeScalar (s : State) (d r : SIdx) (val : Raw16) :
    (s.writeScalar d val).scalarWritten r = if r = d then true else s.scalarWritten r := by
  split
  · subst r; exact State.scalarWritten_writeScalar_same s d val
  · exact State.scalarWritten_writeScalar_other s val ‹_›

/-- A whole-register write marks the four lanes of its register and no other. -/
theorem State.laneWritten_writeVector (s : State) (vd j : VIdx) (l : Lanes Raw16) (k : LaneIdx) :
    ((s.writeVector vd l).vectorWritten j).get k = if j = vd then true else (s.vectorWritten j).get k := by
  split
  · subst j; simp
  · rw [State.vectorWritten_writeVector_other s l ‹_›]

/-- A lane write marks its lane and no other. -/
theorem State.laneWritten_writeLane (s : State) (vd j : VIdx) (lane k : LaneIdx) (val : Raw16) :
    ((s.writeLane vd lane val).vectorWritten j).get k =
      if j = vd ∧ k = lane then true else (s.vectorWritten j).get k := by
  by_cases hj : j = vd
  · subst j
    by_cases hk : k = lane
    · subst k; simp
    · simp [hk, Lanes.get_set_other]
  · simp [hj, State.vectorWritten_writeLane_other]

/-- The writes of an instruction clear no mark. -/
theorem Writes.marksStay {i : Instr} {u : State} (h : Writes s i u) : MarksStay s u := by
  have hscalar (d val) : MarksStay s (s.writeScalar d val) :=
    { MarksStay.refl s with scalars := fun r hr => by simp [State.scalarWritten_writeScalar, hr] }
  cases h with
  | result r => exact { hscalar _ r with flags := fun _ => rfl }
  | comparison a b => exact { MarksStay.refl s with flags := fun _ => rfl }
  | register l => exact { MarksStay.refl s with lanes := fun j k hk => by simp [State.laneWritten_writeVector, hk] }
  | lane k val => exact { MarksStay.refl s with lanes := fun j k hk => by simp [State.laneWritten_writeLane, hk] }
  | link => exact hscalar _ _
  | _ => exact { MarksStay.refl s with }

/-- Settles O53: no write, no fault and no advance of `pc` clears a mark. -/
theorem writtenMarksStay : Obligations.WrittenMarksStay := by
  unfold Obligations.WrittenMarksStay
  intro s t h
  have hstay : MarksStay s t :=
    step_keeps h (MarksStay.refl s) (fun _ => { MarksStay.refl s with }) (fun _ _ hw => hw.marksStay)
      (fun _ _ hu _ _ _ => { hu with })
  exact ⟨hstay.scalars, hstay.lanes, hstay.flags⟩

/-! ### Reset (O11) -/

theorem scalarWritten_resetWith (c : Config) (prog : List IWord) (p : PowerOn) (i : SIdx) :
    (State.resetWith c prog p).scalarWritten i = false := by
  simp [State.scalarWritten, State.resetWith]

theorem vectorWritten_resetWith (c : Config) (prog : List IWord) (p : PowerOn) (j : VIdx) :
    (State.resetWith c prog p).vectorWritten j = Lanes.all false := by
  simp [State.vectorWritten, State.resetWith, Lanes.all]

/-- The contents after reset are the given ones, as the parameter `RESET_REGS` selects them (R52). -/
theorem contents_resetWith (c : Config) (prog : List IWord) (p : PowerOn) :
    (State.resetWith c prog p).x = (ResetRegs.contents c.resetRegs p).x ∧
      (State.resetWith c prog p).v = (ResetRegs.contents c.resetRegs p).v ∧
      (State.resetWith c prog p).cc = (ResetRegs.contents c.resetRegs p).cc ∧
      (State.resetWith c prog p).vtx = (ResetRegs.contents c.resetRegs p).vtx := ⟨rfl, rfl, rfl, rfl⟩

/-- Under `RESET_REGS = zero` reset leaves zeros and no flag, whatever the given contents (R52). -/
theorem resetWith_zero {c : Config} (prog : List IWord) (p : PowerOn) (hc : c.resetRegs = .zero) :
    (∀ i, (State.resetWith c prog p).scalar i = 0) ∧
      (∀ j k, ((State.resetWith c prog p).vector j).get k = 0) ∧
      (State.resetWith c prog p).cc = .none ∧
      ∀ n, (State.resetWith c prog p).vertex n = ⟨0, 0, 0, 0, 0, 0⟩ := by
  obtain ⟨hx, hv, hcc, hvtx⟩ := contents_resetWith c prog p
  rw [hc] at hx hv hcc hvtx
  refine ⟨fun i => ?_, fun j k => ?_, hcc, fun n => ?_⟩
  · simp [State.scalar, hx, ResetRegs.contents, PowerOn.zero]
  · simp [State.vector, hv, ResetRegs.contents, PowerOn.zero, Lanes.get]
  · simp [State.vertex, hvtx, ResetRegs.contents, PowerOn.zero, Vertex.zero]

/-- Settles O11: R52's table field by field, and the contents as `RESET_REGS` selects them. -/
theorem resetValues : Obligations.ResetValues := by
  unfold Obligations.ResetValues
  rintro c prog p s rfl
  refine ⟨rfl, rfl, rfl, rfl, rfl, rfl, rfl, fun a => rfl, scalarWritten_resetWith c prog p, fun j k => ?_, rfl,
    fun hc => ?_, resetWith_zero prog p⟩
  · rw [vectorWritten_resetWith, Lanes.get_all]
  · have hcontents := contents_resetWith c prog p
    rwa [hc] at hcontents

/-! ### What nothing has written, under `RESET_REGS = zero` (O54): a write marks what it changes -/

theorem UnwrittenHoldsZero.writeScalar (hs : UnwrittenHoldsZero s) (d : SIdx) (val : Raw16) :
    UnwrittenHoldsZero (s.writeScalar d val) := by
  intro hzero
  obtain ⟨hscalars, hlanes, hflags⟩ := hs hzero
  refine ⟨fun r hr => ?_, hlanes, hflags⟩
  by_cases hrd : r = d
  · simp [hrd] at hr
  · rw [State.scalarWritten_writeScalar_other s val hrd] at hr
    rw [State.scalar_writeScalar_other s val hrd, hscalars r hr]

theorem UnwrittenHoldsZero.setCC (hs : UnwrittenHoldsZero s) (a b : Int) : UnwrittenHoldsZero (s.setCC a b) := by
  intro hzero
  obtain ⟨hscalars, hlanes, -⟩ := hs hzero
  exact ⟨hscalars, hlanes, fun hccw => absurd hccw (by simp)⟩

theorem UnwrittenHoldsZero.writeVector (hs : UnwrittenHoldsZero s) (vd : VIdx) (l : Lanes Raw16) :
    UnwrittenHoldsZero (s.writeVector vd l) := by
  intro hzero
  obtain ⟨hscalars, hlanes, hflags⟩ := hs hzero
  refine ⟨hscalars, fun j k hjk => ?_, hflags⟩
  by_cases hj : j = vd
  · simp [hj] at hjk
  · rw [State.vectorWritten_writeVector_other s l hj] at hjk
    rw [State.vector_writeVector_other s l hj, hlanes j k hjk]

theorem UnwrittenHoldsZero.writeLane (hs : UnwrittenHoldsZero s) (vd : VIdx) (lane : LaneIdx) (val : Raw16) :
    UnwrittenHoldsZero (s.writeLane vd lane val) := by
  intro hzero
  obtain ⟨hscalars, hlanes, hflags⟩ := hs hzero
  refine ⟨hscalars, fun j k hjk => ?_, hflags⟩
  rw [State.laneWritten_writeLane] at hjk
  by_cases hlane : j = vd ∧ k = lane
  · simp [hlane] at hjk
  · rw [if_neg hlane] at hjk
    have hother := hlanes j k hjk
    by_cases hj : j = vd
    · subst j
      have hk : k ≠ lane := fun hk => hlane ⟨rfl, hk⟩
      rw [State.vector_writeLane_same, Lanes.get_set_other _ _ hk, hother]
    · rw [State.vector_writeLane_other s lane val hj, hother]

theorem UnwrittenHoldsZero.writes (hs : UnwrittenHoldsZero s) {i : Instr} {u : State} (h : Writes s i u) :
    UnwrittenHoldsZero u := by
  cases h with
  | result r => exact (hs.writeScalar _ r).setCC _ _
  | comparison a b => exact hs.setCC a b
  | register l => exact hs.writeVector _ l
  | lane k val => exact hs.writeLane _ k val
  | link => exact hs.writeScalar _ _
  | _ => exact hs

/-- Settles O54: reset leaves zeros, and every write marks what it changes. -/
theorem unwrittenHoldsResetValue : Obligations.UnwrittenHoldsResetValue := by
  unfold Obligations.UnwrittenHoldsResetValue
  refine ⟨fun c prog p hc => ?_, fun s t hs h => ?_⟩
  · obtain ⟨hscalars, hlanes, hflags, -⟩ := resetWith_zero prog p hc
    exact ⟨fun i _ => hscalars i, fun j k _ => hlanes j k, fun _ => hflags⟩
  · exact step_keeps h hs (fun _ => hs) (fun _ _ hw => hs.writes hw) (fun _ _ hu _ _ _ => hu)

/-! ### The snapshot (O59) -/

theorem ccBits_getLsbD (c : CC) :
    ((ccBits c).getLsbD 2 = true ↔ c = .N) ∧ ((ccBits c).getLsbD 1 = true ↔ c = .Z) ∧
      ((ccBits c).getLsbD 0 = true ↔ c = .P) := by
  cases c <;> decide

theorem gsrBits_getLsbD (g : Gsr) :
    (gsrBits g).getLsbD 0 = g.LINE ∧ (gsrBits g).getLsbD 1 = g.TRIANGLE ∧ (gsrBits g).getLsbD 2 = g.DRAW ∧
      (gsrBits g).getLsbD 3 = g.FLUSH := by
  obtain ⟨line, triangle, draw, flush⟩ := g
  revert line triangle draw flush
  decide

theorem programWord_eq_some {prog : List IWord} {k : Int} {iw : IWord} (hk : 0 ≤ k)
    (h : prog[k.toNat]? = some iw) : programWord prog k = some iw := by
  rw [programWord, if_neg (by omega), h]

/-- The snapshot's scalar list shows `u16(pc)` at the reserved index and the register at every other one. -/
theorem snapshot_scalars_getElem? (before after : State) {i : SIdx} (hi : i.toNat < after.cfg.nsreg) :
    (snapshot before after).scalars[i.toNat]? =
      some (if i = after.cfg.pcIdx then u16 after.pc else after.scalar i) := by
  have hlt : i.toNat < 16 := i.isLt
  simp [snapshot, hi, hlt, snapshotScalar, State.scalar, BitVec.toNat_inj]

theorem snapshot_vectors_getElem? (before after : State) {j : VIdx} (hj : j.toNat < after.cfg.nvreg) :
    (snapshot before after).vectors[j.toNat]? = some (after.vector j) := by
  have hlt : j.toNat < 64 := j.isLt
  simp [snapshot, hj, hlt, State.vector]

/-- Under admitted parameters the snapshot shows exactly the registers that exist (00_scope.md R8). -/
theorem snapshot_lengths (before after : State) (hcfg : after.cfg.Valid) :
    (snapshot before after).scalars.length = after.cfg.nsreg ∧
      (snapshot before after).vectors.length = after.cfg.nvreg := by
  obtain ⟨-, -, hnsreg, -, -, -, -, hnvreg, -⟩ := hcfg
  simp [snapshot, hnsreg, hnvreg]

theorem snapshot_vertices (before after : State) :
    (snapshot before after).vertices = [after.vertex 0, after.vertex 1, after.vertex 2] := by
  apply List.ext_getElem
  · simp [snapshot]
  · intro n hn hn'
    simp only [List.length_cons, List.length_nil] at hn'
    interval_cases n <;> simp [snapshot, State.vertex]

/-- Settles O59: one lemma for each part of R51 that is not shown as it is held. -/
theorem snapshotShowsState : Obligations.SnapshotShowsState := by
  unfold Obligations.SnapshotShowsState
  rintro before after _ rfl
  obtain ⟨hN, hZ, hP⟩ := ccBits_getLsbD after.cc
  obtain ⟨hline, htriangle, hdraw, hflush⟩ := gsrBits_getLsbD after.gsr
  have hbytes (k : Int) : wordToByteAddress k = 4 * k := Int.mul_comm k 4
  refine ⟨rfl, hbytes before.pc, rfl, hbytes after.pc, fun iw hk hiw => ?_,
    fun i => snapshot_scalars_getElem? before after, hN, hZ, hP, hline, htriangle, hdraw, hflush,
    fun j => snapshot_vectors_getElem? before after, snapshot_vertices before after,
    snapshot_lengths before after⟩
  rw [snapshot, programWord_eq_some hk hiw]
  rfl

end Sys2Proof.Machine
end

section
/-! PROOFS. 10_state.md R24, R31: the faults left to an instruction whose register fields pass their checks. -/

namespace Sys2Proof.Machine

variable {s t : State}

/-- A fault that depends on the contents of the state, not on the fields of the instruction. -/
def StateCause (f : FaultRecord) : Prop := f.cause = .undefinedRead ∨ f.cause = .memOutOfRange

/-- `r` fails only with a fault that meets `E`, and what it gives otherwise meets `Q`. -/
def Yields {α : Type} (E : FaultRecord → Prop) (Q : α → Prop) : Except FaultRecord α → Prop
  | .error f => E f
  | .ok a => Q a

theorem Yields.bind {α β : Type} {E : FaultRecord → Prop} {P : α → Prop} {Q : β → Prop} {r : Except FaultRecord α}
    {g : α → Except FaultRecord β} (hr : Yields E P r) (hg : ∀ a, P a → Yields E Q (g a)) :
    Yields E Q (r >>= g) := by
  cases r with
  | error f => exact hr
  | ok a => exact hg a hr

/-- A check that passes is followed by what comes after it. -/
theorem Yields.after_ok {α β : Type} {E : FaultRecord → Prop} {Q : β → Prop} {r : Except FaultRecord α} {a : α}
    {g : α → Except FaultRecord β} (hr : r = .ok a) (hg : Yields E Q (g a)) : Yields E Q (r >>= g) := by
  rw [hr]
  exact hg

/-! ### The checks that depend on the state -/

theorem readScalar_yields (s : State) (i : SIdx) : Yields StateCause (fun _ => True) (s.readScalar i) := by
  by_cases h : s.ScalarDefined i
  · rw [State.readScalar_ok h]; trivial
  · rw [State.readScalar_undefined h]; exact .inl rfl

theorem readLane_yields (s : State) (j : VIdx) (k : LaneIdx) :
    Yields StateCause (fun _ => True) (s.readLane j k) := by
  by_cases h : s.LaneDefined j k
  · rw [State.readLane_ok h]; trivial
  · rw [State.readLane_undefined h]; exact .inl rfl

theorem readVector_yields (s : State) (j : VIdx) : Yields StateCause (fun _ => True) (s.readVector j) := by
  by_cases h : ∀ k, s.LaneDefined j k
  · rw [State.readVector_ok h]; trivial
  · rw [State.readVector_undefined h]; exact .inl rfl

theorem readCC_yields (s : State) : Yields StateCause (fun _ => True) s.readCC := by
  by_cases h : s.CCDefined
  · rw [State.readCC_ok h]; trivial
  · rw [State.readCC_undefined h]; exact .inl rfl

theorem checkRange_yields (s : State) (ea : Int) (n : Nat) :
    Yields StateCause (fun _ => True) (s.checkRange ea n) := by
  by_cases h : s.InMemory ea n
  · rw [State.checkRange_ok h]; trivial
  · rw [State.checkRange_outOfRange h]; exact .inr rfl

theorem memRead1_yields (s : State) (ea : Int) : Yields StateCause (fun _ => True) (s.memRead1 ea) :=
  (checkRange_yields s ea 1).bind fun _ _ => trivial

theorem memRead2_yields (s : State) (ea : Int) : Yields StateCause (fun _ => True) (s.memRead2 ea) :=
  (checkRange_yields s ea 2).bind fun _ _ => trivial

theorem memWrite1_yields (s : State) (ea : Int) (w : Byte) :
    Yields StateCause (fun u => u.fault = s.fault) (s.memWrite1 ea w) :=
  (checkRange_yields s ea 1).bind fun _ _ => rfl

theorem memWrite2_yields (s : State) (ea : Int) (val : Raw16) :
    Yields StateCause (fun u => u.fault = s.fault) (s.memWrite2 ea val) :=
  (checkRange_yields s ea 2).bind fun _ _ => rfl

/-! ### The end of an instruction, and the shared forms -/

/-- From `s` with no fault, the answer `res` records a fault only for a cause that depends on the state. -/
def FaultsByState (s : State) (res : Result) : Prop :=
  ∀ t f, s.fault = none → res = .next t → t.fault = some f → StateCause f

/-- The body of an instruction yields a fault that depends on the state, or a state with the fault register kept. -/
abbrev BodyFaultsByState (s : State) (r : Except FaultRecord (State × Disposition)) : Prop :=
  Yields StateCause (fun p => p.1.fault = s.fault) r

theorem retire_faultsByState {r : Except FaultRecord (State × Disposition)} (hr : BodyFaultsByState s r) :
    FaultsByState s (retire s r) := by
  intro t f hnone h hf
  rcases retire_cases h with ⟨e, rfl, rfl⟩ | ⟨u, disp, rfl, rfl⟩
  · obtain rfl : e = f := Option.some.inj hf
    exact hr
  · have hkept : u.fault = s.fault := hr
    rw [State.setPc_fault, hkept, hnone] at hf
    cases hf

theorem retireCall_faultsByState {r : Except FaultRecord (State × Disposition)} (hr : BodyFaultsByState s r) :
    FaultsByState s (retireCall s r) := by
  intro t f hnone h hf
  rcases retireCall_cases h with ⟨e, rfl, rfl⟩ | ⟨u, disp, rfl, rfl⟩
  · obtain rfl : e = f := Option.some.inj hf
    exact hr
  · have hkept : u.fault = s.fault := hr
    rw [State.setPc_fault, State.writeScalar_fault, hkept, hnone] at hf
    cases hf

theorem aluRegister_faultsByState {g : Raw16 → Raw16 → Raw16} {d s1 s2 : SIdx}
    (h : s.cfg.NamesScalar d ∧ s.cfg.NamesScalar s1 ∧ s.cfg.NamesScalar s2) :
    FaultsByState s (aluRegister g d s1 s2 s) := by
  obtain ⟨hd, h1, h2⟩ := h
  exact retire_faultsByState <| .after_ok (State.checkScalar_ok hd) <| .after_ok (State.checkScalar_ok h1) <|
    .after_ok (State.checkScalar_ok h2) <|
    (readScalar_yields s s1).bind fun _ _ => (readScalar_yields s s2).bind fun _ _ => rfl

/-- The form of the immediate operations, moves, comparisons, loads and stores: two scalar fields checked, then
only what depends on the state. -/
theorem scalarPair_faultsByState {d s1 : SIdx} {g : Unit → Except FaultRecord (State × Disposition)}
    (h : s.cfg.NamesScalar d ∧ s.cfg.NamesScalar s1) (hg : BodyFaultsByState s (g ())) :
    FaultsByState s (retire s (s.checkScalar d >>= fun _ => s.checkScalar s1 >>= g)) :=
  retire_faultsByState <| .after_ok (State.checkScalar_ok h.1) <| .after_ok (State.checkScalar_ok h.2) hg

theorem aluImmediate_faultsByState {g : Raw16 → Raw16 → Raw16} {d s1 : SIdx} {imm : Raw16}
    (h : s.cfg.NamesScalar d ∧ s.cfg.NamesScalar s1) : FaultsByState s (aluImmediate g d s1 imm s) :=
  scalarPair_faultsByState h <| (readScalar_yields s s1).bind fun _ _ => rfl

theorem moveImmediate_faultsByState {md : SIdx} {imm : Raw16} (hd : s.cfg.NamesScalar md) :
    FaultsByState s (moveImmediate md imm s) :=
  retire_faultsByState <| .after_ok (State.checkScalar_ok hd) rfl

theorem branchOn_faultsByState {T : List CC} {imm : Raw16} : FaultsByState s (branchOn T imm s) :=
  retire_faultsByState <| (readCC_yields s).bind fun _ _ => rfl

/-- An instruction with no check records no fault. -/
theorem unchecked_faultsByState {u : State} {disp : Disposition} (hu : u.fault = s.fault) :
    FaultsByState s (retire s (.ok (u, disp))) :=
  retire_faultsByState hu

/-- Every instruction, once its register fields pass their checks (R24, R31; 46_control_flow.md R212). -/
theorem exec_faultsByState {i : Instr} (hwf : i.WellFormed s.cfg) : FaultsByState s (exec i s) := by
  cases i with
  | addD d s1 s2 => exact aluRegister_faultsByState hwf
  | addF d s1 s2 => exact aluRegister_faultsByState hwf
  | andD d s1 s2 => exact aluRegister_faultsByState hwf
  | addiD d s1 imm => exact aluImmediate_faultsByState hwf
  | addiF d s1 imm => exact aluImmediate_faultsByState hwf
  | andiD d s1 imm => exact aluImmediate_faultsByState hwf
  | moviD md imm => exact moveImmediate_faultsByState hwf
  | moviF md imm => exact moveImmediate_faultsByState hwf
  | mov md ms => exact scalarPair_faultsByState hwf <| (readScalar_yields s ms).bind fun _ _ => rfl
  | cmp s1 s2 =>
    exact scalarPair_faultsByState hwf <|
      (readScalar_yields s s1).bind fun _ _ => (readScalar_yields s s2).bind fun _ _ => rfl
  | cmpi s1 imm =>
    exact retire_faultsByState <| .after_ok (State.checkScalar_ok hwf) <|
      (readScalar_yields s s1).bind fun _ _ => rfl
  | vadd vd vs1 vs2 =>
    obtain ⟨hd, h1, h2⟩ := hwf
    exact retire_faultsByState <| .after_ok (State.checkVector_ok hd) <| .after_ok (State.checkVector_ok h1) <|
      .after_ok (State.checkVector_ok h2) <|
      (readVector_yields s vs1).bind fun _ _ => (readVector_yields s vs2).bind fun _ _ => rfl
  | vmov vd vs1 =>
    obtain ⟨hd, h1⟩ := hwf
    exact retire_faultsByState <| .after_ok (State.checkVector_ok hd) <| .after_ok (State.checkVector_ok h1) <|
      (readVector_yields s vs1).bind fun _ _ => rfl
  | vmovi vd imm => exact retire_faultsByState <| .after_ok (State.checkVector_ok hwf) rfl
  | vcompmov lane vd s2 =>
    obtain ⟨hd, h2⟩ := hwf
    exact retire_faultsByState <| .after_ok (State.checkVector_ok hd) <| .after_ok (State.checkScalar_ok h2) <|
      (readScalar_yields s s2).bind fun _ _ => rfl
  | vcompmovi lane vd imm => exact retire_faultsByState <| .after_ok (State.checkVector_ok hwf) rfl
  | ldb d s1 imm =>
    exact scalarPair_faultsByState hwf <|
      (readScalar_yields s s1).bind fun _ _ => (memRead1_yields s _).bind fun _ _ => rfl
  | ldw d s1 imm =>
    exact scalarPair_faultsByState hwf <|
      (readScalar_yields s s1).bind fun _ _ => (memRead2_yields s _).bind fun _ _ => rfl
  | stb d s1 imm =>
    exact scalarPair_faultsByState hwf <|
      (readScalar_yields s d).bind fun _ _ => (readScalar_yields s s1).bind fun _ _ =>
      (memWrite1_yields s _ _).bind fun _ hkept => hkept
  | stw d s1 imm =>
    exact scalarPair_faultsByState hwf <|
      (readScalar_yields s d).bind fun _ _ => (readScalar_yields s s1).bind fun _ _ =>
      (memWrite2_yields s _ _).bind fun _ hkept => hkept
  | setvertex vd =>
    exact retire_faultsByState <| .after_ok (State.checkVector_ok hwf) <|
      (readLane_yields s vd 1).bind fun _ _ => (readLane_yields s vd 2).bind fun _ _ =>
      (readLane_yields s vd 3).bind fun _ _ => rfl
  | setcolor vd =>
    exact retire_faultsByState <| .after_ok (State.checkVector_ok hwf) <|
      (readLane_yields s vd 0).bind fun _ _ => (readLane_yields s vd 1).bind fun _ _ =>
      (readLane_yields s vd 2).bind fun _ _ => rfl
  | translate vd =>
    exact retire_faultsByState <| .after_ok (State.checkVector_ok hwf) <|
      (readLane_yields s vd 1).bind fun _ _ => (readLane_yields s vd 2).bind fun _ _ => rfl
  | jmp s1 =>
    exact retire_faultsByState <| .after_ok (State.checkScalar_ok hwf) <|
      (readScalar_yields s s1).bind fun _ _ => rfl
  | jsrr s1 =>
    obtain ⟨h1, hlink⟩ := hwf
    exact retireCall_faultsByState <| .after_ok (State.checkScalar_ok h1) <|
      .after_ok (State.checkNotLink_ok hlink) <| (readScalar_yields s s1).bind fun _ _ => rfl
  | jsr imm => exact retireCall_faultsByState (r := .ok (s, wordOffset imm)) rfl
  | brn imm => exact branchOn_faultsByState
  | brz imm => exact branchOn_faultsByState
  | brp imm => exact branchOn_faultsByState
  | brnz imm => exact branchOn_faultsByState
  | brnp imm => exact branchOn_faultsByState
  | brzp imm => exact branchOn_faultsByState
  | brnzp imm => exact unchecked_faultsByState rfl
  | rotate vd => exact unchecked_faultsByState rfl
  | scale vd => exact unchecked_faultsByState rfl
  | beginprimitive prim => exact unchecked_faultsByState rfl
  | flush => exact unchecked_faultsByState rfl
  | draw => exact unchecked_faultsByState rfl
  | halt => exact unchecked_faultsByState rfl

/-- Settles O16: what is left after the field checks are reads and range checks. -/
theorem wellFormedFaultCauses : Obligations.WellFormedFaultCauses := by
  unfold Obligations.WellFormedFaultCauses
  intro s t i f hnone hwf h hf
  exact exec_faultsByState hwf t f hnone h hf

end Sys2Proof.Machine
end

section
/-! PROOFS. 20_memory.md: the program is never written, the data space is written by the stores alone, its range
check, and its byte order. -/

namespace Sys2Proof.Machine

variable {s t : State}

/-! ### The program and the parameters (O48) -/

/-- No shape of write touches the program or the parameters (10_state.md R20, 20_memory.md R62). -/
theorem Writes.keepsInputs {i : Instr} {u : State} (h : Writes s i u) : KeepsInputs s u := by
  cases h with
  | _ => exact ⟨rfl, rfl⟩

/-- Settles O48: a recorded fault, the writes and the advance of `pc` all leave the two inputs. -/
theorem stepKeepsProgram : Obligations.StepKeepsProgram := by
  unfold Obligations.StepKeepsProgram
  intro s t h
  exact step_keeps h ⟨rfl, rfl⟩ (fun _ => ⟨rfl, rfl⟩) (fun _ _ hw => hw.keepsInputs) fun _ _ hu _ _ _ => hu

/-! ### Who writes memory (O49) -/

/-- Only STB and STW write memory (20_memory.md R61, R70). -/
theorem Writes.mem_eq {i : Instr} {u : State} (h : Writes s i u) (hi : i.mnem ∉ memoryWriters) :
    u.mem = s.mem := by
  cases h with
  | byte w hin => simp [Instr.mnem, memoryWriters] at hi
  | word low high hin => simp [Instr.mnem, memoryWriters] at hi
  | _ => rfl

/-- Settles O49: a fault writes no byte, and no shape of write but the stores' touches memory. -/
theorem onlyStoresWriteMemory : Obligations.OnlyStoresWriteMemory := by
  unfold Obligations.OnlyStoresWriteMemory
  intro i s t h hi
  rcases exec_cases h with ⟨f, rfl⟩ | ⟨u, n, hw, -, rfl⟩
  · exact fun _ _ => rfl
  · exact fun a _ => congrArg (Memory.read · a) (hw.mem_eq hi)

/-! ### The range check (O31) -/

section RefusedAccess

variable {α : Type} {d s1 : SIdx} {imm : Raw16} {f : FaultRecord} {g : α → Except FaultRecord (State × Disposition)}

/-- The form of the loads: once the register checks pass, the fault of the memory access is the one taken. -/
theorem retire_load_error {access : Int → Except FaultRecord α} (hd : s.cfg.NamesScalar d)
    (h1 : ScalarReadable s s1) (haccess : access (accessAddress s s1 imm) = .error f) :
    retire s (s.checkScalar d >>= fun _ => s.checkScalar s1 >>= fun _ => s.readScalar s1 >>= fun base =>
      access (effectiveAddress base imm) >>= g) = .next (s.takeFault f) := by
  rw [accessAddress] at haccess
  simp only [State.checkScalar_ok hd, State.checkScalar_ok h1.1, State.readScalar_ok h1.2, haccess,
    except_ok_bind, except_error_bind, retire_error]

/-- The form of the stores, which read the register stored before the base register. -/
theorem retire_store_error {access : Raw16 → Int → Except FaultRecord α} (hd : ScalarReadable s d)
    (h1 : ScalarReadable s s1) (haccess : access (s.scalar d) (accessAddress s s1 imm) = .error f) :
    retire s (s.checkScalar d >>= fun _ => s.checkScalar s1 >>= fun _ => s.readScalar d >>= fun val =>
      s.readScalar s1 >>= fun base => access val (effectiveAddress base imm) >>= g) = .next (s.takeFault f) := by
  rw [accessAddress] at haccess
  simp only [State.checkScalar_ok hd.1, State.checkScalar_ok h1.1, State.readScalar_ok hd.2,
    State.readScalar_ok h1.2, haccess, except_ok_bind, except_error_bind, retire_error]

end RefusedAccess

/-- An access that completes with `u` inside the data space and is refused outside it is decided by the range
check of R65. -/
theorem rangeCheck_decides {res : Result} {u : State} {ea : Int} {n : Nat}
    (hin : s.InMemory ea n → res = .next (u.setPc (s.pc + 1))) (hu : u.fault = s.fault)
    (hout : ¬s.InMemory ea n → res = .next (s.takeFault ⟨.memOutOfRange, ea⟩)) :
    if 0 ≤ ea ∧ ea + n ≤ s.cfg.memsize then ∃ t, res = .next t ∧ t.fault = s.fault ∧ t.pc = s.pc + 1
    else res = .next { s with fault := some ⟨.memOutOfRange, ea⟩ } := by
  split
  · exact ⟨_, hin ‹_›, hu, rfl⟩
  · exact hout ‹_›

/-- Settles O31: both sides of the range check, for each load and store. -/
theorem accessRangeCheck : Obligations.AccessRangeCheck := by
  unfold Obligations.AccessRangeCheck
  rintro s d s1 imm i n h1 (⟨rfl, rfl, hd⟩ | ⟨rfl, rfl, hd⟩ | ⟨rfl, rfl, hd⟩ | ⟨rfl, rfl, hd⟩)
  · exact rangeCheck_decides (n := 1) (execLdb_ok hd h1.1 h1.2) rfl fun hout =>
      retire_load_error (access := s.memRead1) hd h1 (State.memRead1_outOfRange hout)
  · exact rangeCheck_decides (n := 2) (execLdw_ok hd h1.1 h1.2) rfl fun hout =>
      retire_load_error (access := s.memRead2) hd h1 (State.memRead2_outOfRange hout)
  · exact rangeCheck_decides (n := 1) (execStb_ok hd.1 h1.1 hd.2 h1.2) rfl fun hout =>
      retire_store_error (access := fun val ea => s.memWrite1 ea (lowByte val)) hd h1
        (State.memWrite1_outOfRange hout)
  · exact rangeCheck_decides (n := 2) (execStw_ok hd.1 h1.1 hd.2 h1.2) rfl fun hout =>
      retire_store_error (access := fun val ea => s.memWrite2 ea val) hd h1 (State.memWrite2_outOfRange hout)

/-! ### The byte order (O32) -/

/-- The two bytes of a word, joined, are the word (20_memory.md R66). -/
theorem joinBytes_highByte_lowByte (a : Raw16) : joinBytes (highByte a) (lowByte a) = a := by
  apply BitVec.eq_of_getLsbD_eq
  intro k hk
  by_cases h : k < 8
  · simp [joinBytes, highByte, lowByte, h, hk]
  · simp [joinBytes, highByte, lowByte, h, hk, show k - 8 < 8 by omega, show 8 + (k - 8) = k by omega]

theorem lowByte_toNat (a : Raw16) : (lowByte a).toNat = a.toNat % 256 := by
  simp [lowByte]

theorem highByte_toNat (a : Raw16) : (highByte a).toNat = a.toNat / 256 := by
  simp only [highByte, BitVec.extractLsb'_toNat, Nat.shiftRight_eq_div_pow]
  omega

theorem zext16_toNat (b : Byte) : (zext16 b).toNat = b.toNat := by
  simp only [zext16, BitVec.toNat_setWidth]
  omega

section TwoBytes

variable (hs : s.mem.WF) (a : Nat) (low high : Byte)
include hs

/-- The second byte of a stored word does not disturb the first. -/
theorem State.byteAt_setByte_succ_first : ((s.setByte a low).setByte (a + 1) high).byteAt a = low := by
  rw [State.byteAt_setByte_other _ _ (by omega), State.byteAt_setByte_same hs]

theorem State.byteAt_setByte_succ_second : ((s.setByte a low).setByte (a + 1) high).byteAt (a + 1) = high :=
  State.byteAt_setByte_same (State.setByte_mem_wf hs a low) _ _

end TwoBytes

/-- A scalar result is what the register then reads, whatever flags and `pc` come with it. -/
theorem State.scalar_result (s : State) (d : SIdx) (r : Raw16) (n : Int) :
    (((s.writeScalar d r).setCCResult r).setPc n).scalar d = r := State.scalar_writeScalar_same s d r

/-- LDB inside the data space leaves the byte, zero-extended, in its register (44_load_store.md R160). -/
theorem exec_ldb_scalar {d s1 : SIdx} {imm : Raw16} {ea : Int} (hd : s.cfg.NamesScalar d)
    (h1 : ScalarReadable s s1) (hea : accessAddress s s1 imm = ea) (hin : s.InMemory ea 1) :
    ∃ u, exec (.ldb d s1 imm) s = .next u ∧ (u.scalar d).toNat = (s.byteAt ea.toNat).toNat := by
  subst hea
  exact ⟨_, execLdb_ok hd h1.1 h1.2 hin, by rw [State.scalar_result, zext16_toNat]; rfl⟩

/-- LDW inside the data space leaves the two bytes, the second one high, in its register (44_load_store.md R161). -/
theorem exec_ldw_scalar {d s1 : SIdx} {imm : Raw16} {ea : Int} (hd : s.cfg.NamesScalar d)
    (h1 : ScalarReadable s s1) (hea : accessAddress s s1 imm = ea) (hin : s.InMemory ea 2) :
    ∃ u, exec (.ldw d s1 imm) s = .next u ∧
      u.scalar d = joinBytes (s.byteAt (ea.toNat + 1)) (s.byteAt ea.toNat) := by
  subst hea
  exact ⟨_, execLdw_ok hd h1.1 h1.2 hin, State.scalar_result ..⟩

/-- STW inside the data space leaves the low byte of its register at the address and the high byte after it, and
the parameters as they were (44_load_store.md R163). -/
theorem exec_stw_bytes {d s1 : SIdx} {imm : Raw16} (hs : s.mem.WF) (hd : ScalarReadable s d)
    (h1 : ScalarReadable s s1) (hin : s.InMemory (accessAddress s s1 imm) 2) :
    ∃ t, exec (.stw d s1 imm) s = .next t ∧ t.cfg = s.cfg ∧
      t.byteAt (accessAddress s s1 imm).toNat = lowByte (s.scalar d) ∧
      t.byteAt ((accessAddress s s1 imm).toNat + 1) = highByte (s.scalar d) :=
  ⟨_, execStw_ok hd.1 h1.1 hd.2 h1.2 hin, rfl, State.byteAt_setByte_succ_first hs _ _ _,
    State.byteAt_setByte_succ_second hs _ _ _⟩

/-- Settles O32: the stored bytes are the low and the high byte, and each load reads them back where they are. -/
theorem storeThenLoadLittleEndian : Obligations.StoreThenLoadLittleEndian := by
  unfold Obligations.StoreThenLoadLittleEndian
  intro s d s1 imm hs hd h1 hin
  obtain ⟨t, hexec, hcfg, hlow, hhigh⟩ := exec_stw_bytes hs hd h1 hin
  generalize accessAddress s s1 imm = ea at *
  have hword : t.InMemory ea 2 := by rwa [State.InMemory, hcfg]
  have hfirst : t.InMemory ea 1 := by omega
  have hsecond : t.InMemory (ea + 1) 1 := by omega
  have hnext : (ea + 1).toNat = ea.toNat + 1 := by omega
  refine ⟨t, hexec, hlow, hhigh, fun d' b off hd' hb => ⟨fun hea => ⟨?_, ?_⟩, fun hea => ?_⟩⟩
  · have hload := exec_ldw_scalar hd' hb hea hword
    rwa [hlow, hhigh, joinBytes_highByte_lowByte] at hload
  · have hload := exec_ldb_scalar hd' hb hea hfirst
    rwa [hlow, lowByte_toNat] at hload
  · have hload := exec_ldb_scalar hd' hb hea hsecond
    rwa [hnext, hhigh, highByte_toNat] at hload

end Sys2Proof.Machine
end

section
/-! PROOFS. 30_encoding.md: decoding and encoding are inverse on the used bits (R82 to R85), and the unrecognized
opcodes (R95, R100). -/

namespace Sys2Proof

/-! ### Decoding an encoded instruction (O1) -/

/-- The word of an instruction holds its opcode value, and its fields are its operands (30_encoding.md R85). -/
theorem fields_encode (o : Opc) (i : Instr) :
    fieldOp (encode o i) = o.code i.mnem ∧ decodeAs i.mnem (encode o i) = i := by
  cases i with
  | addD d s1 s2 => exact Laws.FieldsRoundTrip.addD d s1 s2 o
  | addF d s1 s2 => exact Laws.FieldsRoundTrip.addF d s1 s2 o
  | addiD d s1 imm => exact Laws.FieldsRoundTrip.addiD d s1 imm o
  | addiF d s1 imm => exact Laws.FieldsRoundTrip.addiF d s1 imm o
  | vadd vd vs1 vs2 => exact Laws.FieldsRoundTrip.vadd vd vs1 vs2 o
  | andD d s1 s2 => exact Laws.FieldsRoundTrip.andD d s1 s2 o
  | andiD d s1 imm => exact Laws.FieldsRoundTrip.andiD d s1 imm o
  | mov md ms => exact Laws.FieldsRoundTrip.mov md ms o
  | moviD md imm => exact Laws.FieldsRoundTrip.moviD md imm o
  | moviF md imm => exact Laws.FieldsRoundTrip.moviF md imm o
  | vmov vd vs1 => exact Laws.FieldsRoundTrip.vmov vd vs1 o
  | vmovi vd imm => exact Laws.FieldsRoundTrip.vmovi vd imm o
  | cmp s1 s2 => exact Laws.FieldsRoundTrip.cmp s1 s2 o
  | cmpi s1 imm => exact Laws.FieldsRoundTrip.cmpi s1 imm o
  | vcompmov lane vd s2 => exact Laws.FieldsRoundTrip.vcompmov lane vd s2 o
  | vcompmovi lane vd imm => exact Laws.FieldsRoundTrip.vcompmovi lane vd imm o
  | ldb d s1 imm => exact Laws.FieldsRoundTrip.ldb d s1 imm o
  | ldw d s1 imm => exact Laws.FieldsRoundTrip.ldw d s1 imm o
  | stb d s1 imm => exact Laws.FieldsRoundTrip.stb d s1 imm o
  | stw d s1 imm => exact Laws.FieldsRoundTrip.stw d s1 imm o
  | setvertex vd => exact Laws.FieldsRoundTrip.setvertex vd o
  | setcolor vd => exact Laws.FieldsRoundTrip.setcolor vd o
  | rotate vd => exact Laws.FieldsRoundTrip.rotate vd o
  | translate vd => exact Laws.FieldsRoundTrip.translate vd o
  | scale vd => exact Laws.FieldsRoundTrip.scale vd o
  | beginprimitive prim => exact Laws.FieldsRoundTrip.beginprimitive prim o
  | flush => exact Laws.FieldsRoundTrip.flush o
  | draw => exact Laws.FieldsRoundTrip.draw o
  | brn imm => exact Laws.FieldsRoundTrip.brn imm o
  | brz imm => exact Laws.FieldsRoundTrip.brz imm o
  | brp imm => exact Laws.FieldsRoundTrip.brp imm o
  | brnz imm => exact Laws.FieldsRoundTrip.brnz imm o
  | brnp imm => exact Laws.FieldsRoundTrip.brnp imm o
  | brzp imm => exact Laws.FieldsRoundTrip.brzp imm o
  | brnzp imm => exact Laws.FieldsRoundTrip.brnzp imm o
  | jmp s1 => exact Laws.FieldsRoundTrip.jmp s1 o
  | jsr imm => exact Laws.FieldsRoundTrip.jsr imm o
  | jsrr s1 => exact Laws.FieldsRoundTrip.jsrr s1 o
  | halt => exact Laws.FieldsRoundTrip.halt o

/-- Settles O1: the opcode value selects the tag, since the map is injective, and the fields are the operands. -/
theorem decodeOfEncode : Obligations.DecodeOfEncode := by
  unfold Obligations.DecodeOfEncode
  intro o i ho
  obtain ⟨hop, hfields⟩ := fields_encode o i
  have hmnem : o.mnemOf (fieldOp (encode o i)) = some i.mnem := hop ▸ Opc.mnemOf_code ho i.mnem
  rw [decode_of_mnemOf hmnem, hfields]

/-! ### Encoding a decoded instruction (O2) -/

/-- A word decodes to an instruction exactly through the tag its opcode selects (30_encoding.md R83). -/
theorem decode_eq_instr_iff {o : Opc} {iw : IWord} {i : Instr} :
    decode o iw = .instr i ↔ ∃ m, o.mnemOf (fieldOp iw) = some m ∧ decodeAs m iw = i := by
  cases h : o.mnemOf (fieldOp iw) with
  | some m => simp [decode_of_mnemOf h]
  | none => simp [decode, h]

/-- The fields of a word, put back under the tag of its opcode, are the word's used bits: one lemma `pack…_fields`
for each format of R85. -/
theorem encode_decodeAs {o : Opc} {m : Mnem} {iw : IWord} (h : o.code m = fieldOp iw) :
    encode o (decodeAs m iw) = iw &&& m.usedBits := by
  rw [encode.eq_def, decodeAs_mnem, h]
  cases m with
  | addD | addF | andD => exact packR3_fields iw
  | addiD | addiF | andiD | ldb | ldw | stb | stw => exact packRI_fields iw
  | mov | cmp => exact packM2_fields iw
  | moviD | moviF | cmpi => exact packMI_fields iw
  | vadd => exact packV3_fields iw
  | vmov => exact packV2_fields iw
  | vmovi => exact packVI_fields iw
  | vcompmov => exact packLR_fields iw
  | vcompmovi => exact packLI_fields iw
  | setvertex | setcolor | rotate | translate | scale => exact packG1_fields iw
  | beginprimitive | jmp | jsrr => exact packP_fields iw
  | brn | brz | brp | brnz | brnp | brzp | brnzp | jsr => exact packB_fields iw
  | flush | draw | halt => exact packZ_fields iw

/-- Settles O2: the decoded instruction holds the fields of the word under the tag its opcode selects. -/
theorem encodeOfDecode : Obligations.EncodeOfDecode := by
  unfold Obligations.EncodeOfDecode
  intro o iw i h
  obtain ⟨m, hm, rfl⟩ := decode_eq_instr_iff.1 h
  rw [decodeAs_mnem, encode_decodeAs (Opc.code_of_mnemOf hm)]

/-! ### The ignored bits (O3) -/

/-- Every format uses the eight opcode bits (30_encoding.md R80, R85). -/
theorem Mnem.usedBits_and_opcode (m : Mnem) : m.usedBits &&& 0xFF000000#32 = 0xFF000000#32 := by
  cases m <;> rfl

/-- The opcode is read from the top eight bits alone. -/
theorem fieldOp_and_opcode (iw : IWord) : fieldOp (iw &&& 0xFF000000#32) = fieldOp iw := by
  rw [← packZ_fields, fieldOp_packZ]

theorem fieldOp_and_usedBits (m : Mnem) (iw : IWord) : fieldOp (iw &&& m.usedBits) = fieldOp iw := by
  rw [← fieldOp_and_opcode, BitVec.and_assoc, m.usedBits_and_opcode, fieldOp_and_opcode]

/-- The operands are read from the used bits alone: encoding gives these back, and decoding gives back what was
encoded. -/
theorem decodeAs_and_usedBits {o : Opc} {m : Mnem} {iw : IWord} (h : o.code m = fieldOp iw) :
    decodeAs m (iw &&& m.usedBits) = decodeAs m iw := by
  have hfields := (fields_encode o (decodeAs m iw)).2
  rwa [decodeAs_mnem, encode_decodeAs h] at hfields

/-- Settles O3: words that agree on the used bits have the same opcode, so the same tag, and the same operands. -/
theorem ignoredBitsChangeNothing : Obligations.IgnoredBitsChangeNothing := by
  unfold Obligations.IgnoredBitsChangeNothing
  intro o iw iw' i h hbits
  obtain ⟨m, hm, rfl⟩ := decode_eq_instr_iff.1 h
  rw [decodeAs_mnem] at hbits
  have hop : fieldOp iw' = fieldOp iw := by
    rw [← fieldOp_and_usedBits m iw', hbits, fieldOp_and_usedBits]
  have hcode : o.code m = fieldOp iw := Opc.code_of_mnemOf hm
  refine decode_eq_instr_iff.2 ⟨m, hop ▸ hm, ?_⟩
  rw [← decodeAs_and_usedBits (hcode.trans hop.symm), hbits, decodeAs_and_usedBits hcode]

/-! ### The unrecognized opcodes (O4) -/

/-- No mnemonic is found exactly for the values outside the image of `OPC` (30_encoding.md R100). -/
theorem Opc.mnemOf_eq_none_iff {o : Opc} {op : OpByte} : o.mnemOf op = none ↔ op ∉ Mnem.all.map o.code := by
  simp [Opc.mnemOf]

/-- A word decodes to `NOP` exactly when its opcode is outside the image of `OPC`, and the opcode is kept (R100). -/
theorem decode_eq_nop_iff {o : Opc} {iw : IWord} {op : OpByte} :
    decode o iw = .nop op ↔ op = fieldOp iw ∧ op ∉ Mnem.all.map o.code := by
  rw [← Opc.mnemOf_eq_none_iff]
  cases h : o.mnemOf (fieldOp iw) with
  | some m =>
    simp only [decode_of_mnemOf h, reduceCtorEq, false_iff]
    rintro ⟨rfl, hnone⟩
    rw [h] at hnone
    cases hnone
  | none =>
    simp only [decode, h, Decoded.nop.injEq]
    exact ⟨fun e => ⟨e.symm, e ▸ h⟩, fun e => e.1.symm⟩

/-- The column "default `op`" of R95: four blocks of consecutive values. -/
theorem defaultCodes_toNat : (Mnem.all.map (Opc.code {})).map BitVec.toNat =
    List.range' 0x00 20 ++ List.range' 0x20 8 ++ List.range' 0x30 10 ++ [0x40] := by decide

/-- An opcode value is one of R95's defaults exactly inside one of the four blocks. -/
theorem mem_defaultCodes_iff {op : OpByte} : op ∈ Mnem.all.map (Opc.code {}) ↔
    op.toNat < 0x14 ∨ (0x20 ≤ op.toNat ∧ op.toNat < 0x28) ∨ (0x30 ≤ op.toNat ∧ op.toNat < 0x3A) ∨
      op.toNat = 0x40 := by
  rw [← List.mem_map_of_injective (f := BitVec.toNat) fun _ _ => BitVec.eq_of_toNat_eq, defaultCodes_toNat]
  simp only [List.mem_append, List.mem_range'_1, List.mem_singleton]
  omega

/-- Settles O4: R100's ranges are the gaps between the blocks of R95. -/
theorem unrecognizedOpcodes : Obligations.UnrecognizedOpcodes := by
  unfold Obligations.UnrecognizedOpcodes
  intro iw op
  have hbyte : op.toNat < 256 := op.isLt
  rw [decode_eq_nop_iff, mem_defaultCodes_iff]
  exact and_congr_right fun _ => by omega

/-! ### Sample words (O5) -/

/-- Settles O5: nine fixed words, each decoded. -/
theorem sampleWordsDecode : Obligations.SampleWordsDecode := by
  unfold Obligations.SampleWordsDecode
  decide

end Sys2Proof
end

section
/-! PROOFS. 30_encoding.md R95, decision D1: no instruction reads the program or the opcode map, so the same
instructions written for another map run step for step alike. -/

namespace Sys2Proof.Machine

/-- The state with another opcode map and another program; `recode` is this with the recoded program. -/
def State.withCode (o : Opc) (prog : List IWord) (s : State) : State :=
  { s with cfg := { s.cfg with opc := o }, prog := prog }

theorem recode_eq_withCode (o : Opc) (s : State) :
    recode o s = s.withCode o (s.prog.map (recodeWord s.cfg.opc o)) := rfl

/-- The answer with the code of its next state replaced. -/
def recodeResult (o : Opc) (prog : List IWord) : Result → Result
  | .next t => .next (t.withCode o prog)
  | .fault r => .fault r
  | .refused r => .refused r

@[simp] theorem recodeResult_next (o : Opc) (prog : List IWord) (t : State) :
    recodeResult o prog (.next t) = .next (t.withCode o prog) := rfl

/-! ### The parts of an instruction -/

/-- The body of an instruction gives the same fault, or the same state but for the code, and the same disposition. -/
abbrev BodyAlike (o : Opc) (prog : List IWord) (r r' : Except FaultRecord (State × Disposition)) : Prop :=
  r' = r.map (Prod.map (State.withCode o prog) id)

/-- What follows a part that answers the same; a check or a read does so under any code, by its definition. -/
theorem bind_alike {α β β' : Type} {φ : β → β'} {r : Except FaultRecord α} {g : α → Except FaultRecord β}
    {g' : α → Except FaultRecord β'} (hg : ∀ a, g' a = (g a).map φ) : (r >>= g') = (r >>= g).map φ := by
  cases r with
  | error f => rfl
  | ok a => exact hg a

/-- What follows a part that answers the same up to `ψ`, as a store does. -/
theorem map_bind_alike {α α' β β' : Type} {ψ : α → α'} {φ : β → β'} {r : Except FaultRecord α}
    {r' : Except FaultRecord α'} {g : α → Except FaultRecord β} {g' : α' → Except FaultRecord β'}
    (hr : r' = r.map ψ) (hg : ∀ a, g' (ψ a) = (g a).map φ) : (r' >>= g') = (r >>= g).map φ := by
  subst hr
  cases r with
  | error f => rfl
  | ok a => exact hg a

section Parts

variable {o : Opc} {prog : List IWord} {s : State}

theorem memWrite1_alike (ea : Int) (w : Byte) :
    (s.withCode o prog).memWrite1 ea w = (s.memWrite1 ea w).map (State.withCode o prog) :=
  bind_alike fun _ => rfl

theorem memWrite2_alike (ea : Int) (val : Raw16) :
    (s.withCode o prog).memWrite2 ea val = (s.memWrite2 ea val).map (State.withCode o prog) :=
  bind_alike fun _ => rfl

theorem retire_alike {r r' : Except FaultRecord (State × Disposition)} (h : BodyAlike o prog r r') :
    retire (s.withCode o prog) r' = recodeResult o prog (retire s r) := by
  subst h
  cases r with
  | error f => rfl
  | ok p => rfl

theorem retireCall_alike {r r' : Except FaultRecord (State × Disposition)} (h : BodyAlike o prog r r') :
    retireCall (s.withCode o prog) r' = recodeResult o prog (retireCall s r) := by
  subst h
  cases r with
  | error f => rfl
  | ok p => rfl

/-! ### The shared forms, and every instruction -/

theorem aluRegister_alike (f : Raw16 → Raw16 → Raw16) (d s1 s2 : SIdx) :
    aluRegister f d s1 s2 (s.withCode o prog) = recodeResult o prog (aluRegister f d s1 s2 s) :=
  retire_alike <| bind_alike fun _ => bind_alike fun _ => bind_alike fun _ => bind_alike fun _ =>
    bind_alike fun _ => rfl

theorem aluImmediate_alike (f : Raw16 → Raw16 → Raw16) (d s1 : SIdx) (imm : Raw16) :
    aluImmediate f d s1 imm (s.withCode o prog) = recodeResult o prog (aluImmediate f d s1 imm s) :=
  retire_alike <| bind_alike fun _ => bind_alike fun _ => bind_alike fun _ => rfl

theorem moveImmediate_alike (md : SIdx) (imm : Raw16) :
    moveImmediate md imm (s.withCode o prog) = recodeResult o prog (moveImmediate md imm s) :=
  retire_alike <| bind_alike fun _ => rfl

theorem branchOn_alike (T : List CC) (imm : Raw16) :
    branchOn T imm (s.withCode o prog) = recodeResult o prog (branchOn T imm s) :=
  retire_alike <| bind_alike fun _ => rfl

/-- No instruction reads the program or the opcode map: with other code it does the same. -/
theorem exec_withCode (i : Instr) : exec i (s.withCode o prog) = recodeResult o prog (exec i s) := by
  cases i with
  | addD d s1 s2 => exact aluRegister_alike add16 d s1 s2
  | addF d s1 s2 => exact aluRegister_alike add16 d s1 s2
  | andD d s1 s2 => exact aluRegister_alike (· &&& ·) d s1 s2
  | addiD d s1 imm => exact aluImmediate_alike addImm16 d s1 imm
  | addiF d s1 imm => exact aluImmediate_alike addImm16 d s1 imm
  | andiD d s1 imm => exact aluImmediate_alike (· &&& ·) d s1 imm
  | moviD md imm => exact moveImmediate_alike md imm
  | moviF md imm => exact moveImmediate_alike md imm
  | mov md ms => exact retire_alike <| bind_alike fun _ => bind_alike fun _ => bind_alike fun _ => rfl
  | cmp s1 s2 =>
    exact retire_alike <| bind_alike fun _ => bind_alike fun _ => bind_alike fun _ => bind_alike fun _ => rfl
  | cmpi s1 imm => exact retire_alike <| bind_alike fun _ => bind_alike fun _ => rfl
  | vadd vd vs1 vs2 =>
    exact retire_alike <| bind_alike fun _ => bind_alike fun _ => bind_alike fun _ => bind_alike fun _ =>
      bind_alike fun _ => rfl
  | vmov vd vs1 => exact retire_alike <| bind_alike fun _ => bind_alike fun _ => bind_alike fun _ => rfl
  | vmovi vd imm => exact retire_alike <| bind_alike fun _ => rfl
  | vcompmov lane vd s2 => exact retire_alike <| bind_alike fun _ => bind_alike fun _ => bind_alike fun _ => rfl
  | vcompmovi lane vd imm => exact retire_alike <| bind_alike fun _ => rfl
  | ldb d s1 imm =>
    exact retire_alike <| bind_alike fun _ => bind_alike fun _ => bind_alike fun _ => bind_alike fun _ => rfl
  | ldw d s1 imm =>
    exact retire_alike <| bind_alike fun _ => bind_alike fun _ => bind_alike fun _ => bind_alike fun _ => rfl
  | stb d s1 imm =>
    exact retire_alike <| bind_alike fun _ => bind_alike fun _ => bind_alike fun _ => bind_alike fun _ =>
      map_bind_alike (memWrite1_alike _ _) fun _ => rfl
  | stw d s1 imm =>
    exact retire_alike <| bind_alike fun _ => bind_alike fun _ => bind_alike fun _ => bind_alike fun _ =>
      map_bind_alike (memWrite2_alike _ _) fun _ => rfl
  | setvertex vd =>
    exact retire_alike <| bind_alike fun _ => bind_alike fun _ => bind_alike fun _ => bind_alike fun _ => rfl
  | setcolor vd =>
    exact retire_alike <| bind_alike fun _ => bind_alike fun _ => bind_alike fun _ => bind_alike fun _ => rfl
  | translate vd => exact retire_alike <| bind_alike fun _ => bind_alike fun _ => bind_alike fun _ => rfl
  | jmp s1 => exact retire_alike <| bind_alike fun _ => bind_alike fun _ => rfl
  | jsrr s1 => exact retireCall_alike <| bind_alike fun _ => bind_alike fun _ => bind_alike fun _ => rfl
  | brn imm => exact branchOn_alike [.N] imm
  | brz imm => exact branchOn_alike [.Z] imm
  | brp imm => exact branchOn_alike [.P] imm
  | brnz imm => exact branchOn_alike [.N, .Z] imm
  | brnp imm => exact branchOn_alike [.N, .P] imm
  | brzp imm => exact branchOn_alike [.Z, .P] imm
  | jsr imm => rfl
  | brnzp imm => rfl
  | rotate vd => rfl
  | scale vd => rfl
  | beginprimitive prim => rfl
  | flush => rfl
  | draw => rfl
  | halt => rfl

end Parts

/-! ### The step -/

/-- The recoded program has at each index the recoded word (20_memory.md R62). -/
theorem programWord_map (f : IWord → IWord) (prog : List IWord) (k : Int) :
    programWord (prog.map f) k = (programWord prog k).map f := by
  unfold programWord
  split
  · rfl
  · exact List.getElem?_map ..

theorem fetch_recode (o : Opc) (s : State) : fetch (recode o s) = (fetch s).map (recodeWord s.cfg.opc o) := by
  simp only [recode_eq_withCode, fetch, State.withCode, programWord_map]
  cases programWord s.prog s.pc with
  | none => rfl
  | some iw => rfl

theorem mem_of_programWord {prog : List IWord} {k : Int} {iw : IWord} (h : programWord prog k = some iw) :
    iw ∈ prog := by
  unfold programWord at h
  split at h
  · cases h
  · exact List.mem_of_getElem? h

/-- A fetched word is one of the program's. -/
theorem mem_prog_of_fetch {s : State} {iw : IWord} (h : fetch s = .ok iw) : iw ∈ s.prog := by
  unfold fetch at h
  split at h
  · cases h
    exact mem_of_programWord ‹_›
  · cases h

/-- The word written for another injective map decodes there to the same instruction (O1). -/
theorem decode_recodeWord {o o' : Opc} {iw : IWord} {i : Instr} (ho : o'.Injective) (h : decode o iw = .instr i) :
    decode o' (recodeWord o o' iw) = .instr i := by
  rw [recodeWord, h]
  exact decodeOfEncode o' i ho

/-- A step from the recoded state is the step from the state, with its code recoded. -/
theorem step_recode {s : State} {o : Opc} (ho : o.Injective)
    (hprog : ∀ iw ∈ s.prog, ∃ i, decode s.cfg.opc iw = .instr i) :
    step (recode o s) = recodeResult o (s.prog.map (recodeWord s.cfg.opc o)) (step s) := by
  have hreason : stopReason (recode o s) = stopReason s := rfl
  cases hstop : stopReason s with
  | some r => rw [step_of_stopReason hstop, step_of_stopReason (hreason.trans hstop), recodeResult]
  | none =>
    rw [step_of_running hstop, step_of_running (hreason.trans hstop)]
    have hfetch' := fetch_recode o s
    cases hfetch : fetch s with
    | error f =>
      rw [hfetch] at hfetch'
      rw [stepRunning_of_fetch_error hfetch, stepRunning_of_fetch_error hfetch']
      rfl
    | ok iw =>
      rw [hfetch] at hfetch'
      obtain ⟨i, hi⟩ := hprog iw (mem_prog_of_fetch hfetch)
      have hi' : decode (recode o s).cfg.opc (recodeWord s.cfg.opc o iw) = .instr i := decode_recodeWord ho hi
      rw [stepRunning_of_fetch_ok hfetch, stepRunning_of_fetch_ok hfetch', hi, hi']
      exact exec_withCode i

/-- Settles O55: the next state keeps the program and the map, so recoding it is replacing its code likewise. -/
theorem recodedProgramRunsAlike : Obligations.RecodedProgramRunsAlike := by
  unfold Obligations.RecodedProgramRunsAlike
  intro s t o ho hprog h
  obtain ⟨hcfg, hsame⟩ := stepKeepsProgram s t h
  rw [step_recode ho hprog, h, recodeResult_next, recode_eq_withCode, hcfg, hsame]

end Sys2Proof.Machine
end

section
/-! PROOFS. 40_numeric.md: the numeric helpers as arithmetic, and the results and flags of the scalar instructions
(41_scalar_alu.md, 42_move_compare.md). -/

namespace Sys2Proof.Machine

variable {s : State}

/-! ### The residue and the sign bit (00_scope.md R11) -/

/-- The residue of the signed reading is the pattern. -/
theorem u16_s16 (a : Raw16) : u16 (s16 a) = a := BitVec.ofInt_toInt

/-- The residue of the unsigned reading is the pattern. -/
theorem u16_toNat (a : Raw16) : u16 (a.toNat : Int) = a := by
  rw [u16, BitVec.ofInt_natCast, BitVec.ofNat_toNat, BitVec.setWidth_eq]

theorem u16_add (m n : Int) : u16 (m + n) = u16 m + u16 n := BitVec.ofInt_add m n

/-- `u16` is the residue modulo 65536 (00_scope.md R11). -/
theorem toNat_u16 (n : Int) : ((u16 n).toNat : Int) = n % 65536 := by
  rw [u16, BitVec.toNat_ofInt]
  omega

theorem msb_eq_bit15 (a : Raw16) : a.msb = a.getLsbD 15 := BitVec.msb_eq_getLsbD_last a

/-- Bit 15 set: the signed reading is the unsigned one less 65536. -/
theorem s16_of_bit15 {a : Raw16} (h : a.getLsbD 15 = true) : s16 a = a.toNat - 65536 ∧ 32768 ≤ a.toNat := by
  have hmsb : a.msb = true := (msb_eq_bit15 a).trans h
  have hge := BitVec.msb_eq_true_iff_two_mul_ge.1 hmsb
  exact ⟨by simp [s16, BitVec.toInt_eq_msb_cond, hmsb], by omega⟩

/-- Bit 15 clear: the signed and the unsigned reading agree. -/
theorem s16_of_not_bit15 {a : Raw16} (h : a.getLsbD 15 = false) : s16 a = a.toNat ∧ a.toNat < 32768 := by
  have hmsb : a.msb = false := (msb_eq_bit15 a).trans h
  have hlt := BitVec.msb_eq_false_iff_two_mul_lt.1 hmsb
  exact ⟨by simp [s16, BitVec.toInt_eq_msb_cond, hmsb], by omega⟩

/-! ### `SignExtend16to32` (O57) -/

/-- R120's formula is the sign extension of two's complement. -/
theorem signExtend16to32_eq (v : Raw16) : signExtend16to32 v = v.signExtend 32 := by
  unfold signExtend16to32
  split
  next h =>
    apply BitVec.eq_of_getLsbD_eq
    intro i hi
    interval_cases i <;> simp [BitVec.getLsbD_signExtend, msb_eq_bit15, h, -BitVec.getLsbD_eq_getElem]
  next h =>
    have hmsb : v.msb = false := (msb_eq_bit15 v).trans (Bool.eq_false_of_not_eq_true h)
    rw [BitVec.signExtend_eq_setWidth_of_msb_false hmsb]

/-- Settles O57: the formula is the definition's two branches, and the laws are those of the sign extension. -/
theorem signExtensionLaws : Obligations.SignExtensionLaws := by
  unfold Obligations.SignExtensionLaws
  intro v
  refine ⟨fun h => if_pos h, fun h => if_neg (Bool.eq_false_iff.1 h), ?_, ?_, ?_⟩
  · have hlow : (v.signExtend 32).setWidth 16 = v := by
      apply BitVec.eq_of_getLsbD_eq
      intro i hi
      rw [BitVec.getLsbD_setWidth, BitVec.getLsbD_signExtend]
      simp [hi, show i < 32 by omega]
    rw [signExtend16to32_eq]
    exact (BitVec.toNat_setWidth 16 _).symm.trans (congrArg BitVec.toNat hlow)
  · rw [signExtend16to32_eq, BitVec.getLsbD_signExtend]
    simp [msb_eq_bit15]
  · rw [signExtend16to32_eq, BitVec.toInt_signExtend_of_le (by decide)]

/-! ### `FixedToTruncatedInt` (O56) -/

/-- R125's shift with its forced nibble is the arithmetic shift. -/
theorem fixedToTruncatedInt_eq (raw : Raw16) : fixedToTruncatedInt raw = raw.sshiftRight 4 := by
  unfold fixedToTruncatedInt
  split
  next h =>
    apply BitVec.eq_of_getLsbD_eq
    intro i hi
    interval_cases i <;> simp [BitVec.getLsbD_sshiftRight, msb_eq_bit15, h, -BitVec.getLsbD_eq_getElem]
  next h =>
    have hmsb : raw.msb = false := (msb_eq_bit15 raw).trans (Bool.eq_false_of_not_eq_true h)
    rw [BitVec.sshiftRight_eq_of_msb_false hmsb]

/-- Settles O56: the arithmetic shift by 4 divides the signed reading by 16, toward minus infinity. -/
theorem truncatedIntIsFloor : Obligations.TruncatedIntIsFloor := by
  unfold Obligations.TruncatedIntIsFloor
  intro raw
  have hdiv : (raw.sshiftRight 4).toInt = raw.toInt / 16 := by
    rw [BitVec.toInt_sshiftRight, Int.shiftRight_eq_div_pow]
    rfl
  rw [fixedToTruncatedInt_eq, ← hdiv]
  exact (u16_s16 _).symm

/-! ### `FixedToFloat` and `FloatToFixed` (O58, O60) -/

/-- The low 15 bits, as a number. -/
theorem and_7FFF_toNat (raw : Raw16) : (raw &&& 0x7FFF#16).toNat = raw.toNat % 32768 := by
  rw [BitVec.toNat_and]
  exact Nat.and_two_pow_sub_one_eq_mod raw.toNat 15

/-- R121's biased formula is the signed reading over 16. -/
theorem fixedToFloat_eq (raw : Raw16) : fixedToFloat raw = (s16 raw : Rat) / 16 := by
  unfold fixedToFloat
  rw [and_7FFF_toNat]
  split
  next h =>
    obtain ⟨hs, hlow⟩ := s16_of_bit15 h
    have hmod : raw.toNat % 32768 = raw.toNat - 32768 := by omega
    rw [hs, hmod]
    push_cast [hlow]
    ring
  next h =>
    obtain ⟨hs, hhigh⟩ := s16_of_not_bit15 (by simpa using h)
    rw [hs, Nat.mod_eq_of_lt hhigh, Int.cast_natCast]

/-- Where `16·f` is an integer the rounding does not matter (R123). -/
theorem floatToFixed_of_integer {R : Type} [Field R] [LinearOrder R] [IsStrictOrderedRing R] [FloorRing R]
    (c : Config) {f : R} {n : Int} (h : 16 * f = n) : floatToFixed c f = u16 n := by
  rw [floatToFixed, h, roundBy_intCast]

/-- Settles O58: 16 times the fixed-point reading is the signed reading, whose residue is the pattern. -/
theorem fixedPointRoundTrip : Obligations.FixedPointRoundTrip := by
  unfold Obligations.FixedPointRoundTrip
  intro c raw
  have hback : floatToFixed c (fixedToFloat raw) = raw := by
    have hint : 16 * fixedToFloat raw = (s16 raw : Rat) := by rw [fixedToFloat_eq]; ring
    rw [floatToFixed_of_integer c hint, u16_s16]
  exact ⟨fixedToFloat_eq raw, hback, (floatToFixed_ratCast c _).trans hback⟩

/-- The default rounding: the integer above a negative number, the one below any other (decision D32). -/
theorem roundBy_towardZero (q : Real) :
    roundBy (.directed .towardZero) q = if q < 0 then ⌈q⌉ else ⌊q⌋ := by
  unfold roundBy
  split
  next h =>
    rw [← h, Int.ceil_intCast, Int.floor_intCast, ite_self]
  next h =>
    have hceil : ⌈q⌉ = ⌊q⌋ + 1 := by
      rw [Int.ceil_eq_iff]
      push_cast
      have := lt_of_le_of_ne (Int.floor_le q) h
      exact ⟨by linarith, (Int.lt_floor_add_one q).le⟩
    simp [pickNeighbour, hceil]

/-- The default rounding moves a number toward zero, by less than 1, and not past it. -/
theorem roundBy_towardZero_bounds (q : Real) :
    |(roundBy (.directed .towardZero) q : Real)| ≤ |q| ∧ |q - roundBy (.directed .towardZero) q| < 1 ∧
      0 ≤ (roundBy (.directed .towardZero) q : Real) * q := by
  rw [roundBy_towardZero]
  split
  next hneg =>
    have hsign : (⌈q⌉ : Real) ≤ 0 := by exact_mod_cast Int.ceil_le.2 (by simpa using hneg.le)
    have hlow : q ≤ ⌈q⌉ := Int.le_ceil q
    have hhigh : (⌈q⌉ : Real) < q + 1 := Int.ceil_lt_add_one q
    rw [abs_of_nonpos hsign, abs_of_neg hneg, abs_lt]
    exact ⟨by linarith, ⟨by linarith, by linarith⟩, mul_nonneg_of_nonpos_of_nonpos hsign hneg.le⟩
  next hpos =>
    rw [not_lt] at hpos
    have hsign : (0 : Real) ≤ ⌊q⌋ := by exact_mod_cast Int.floor_nonneg.2 hpos
    have hlow : (⌊q⌋ : Real) ≤ q := Int.floor_le q
    have hhigh : q < ⌊q⌋ + 1 := Int.lt_floor_add_one q
    rw [abs_of_nonneg hsign, abs_of_nonneg hpos, abs_lt]
    exact ⟨hlow, ⟨by linarith, by linarith⟩, mul_nonneg hsign hpos⟩

/-- Settles O60: the bounds of the default rounding at `16·f`, which has the sign of `f`. -/
theorem realToFixedTruncates : Obligations.RealToFixedTruncates := by
  unfold Obligations.RealToFixedTruncates
  intro f
  refine ⟨fun c n h => floatToFixed_of_integer c h, roundBy (.directed .towardZero) (16 * f), rfl, ?_⟩
  obtain ⟨hsmaller, hnear, hsign⟩ := roundBy_towardZero_bounds (16 * f)
  exact ⟨hsmaller, hnear, by linarith⟩

/-! ### The flags (40_numeric.md R124) -/

/-- `SetCC` sets the one flag of the order of its operands (R124). -/
theorem compareFlag_iff (a b : Int) :
    (compareFlag a b = .N ↔ a < b) ∧ (compareFlag a b = .Z ↔ a = b) ∧ (compareFlag a b = .P ↔ a > b) := by
  unfold compareFlag
  rcases lt_trichotomy a b with h | h | h
  · simp [h, h.ne, h.le]
  · simp [h]
  · simp [h, h.ne', h.not_gt]

/-- The flags of a result: bit 15 is its sign, and only the pattern 0 reads 0 (R124, decision D14). -/
theorem compareFlag_s16_zero (r : Raw16) :
    compareFlag (s16 r) 0 = if r.getLsbD 15 then .N else if r = 0 then .Z else .P := by
  unfold compareFlag
  have hzero : s16 r = 0 ↔ r = 0 := BitVec.toInt_inj (y := 0)
  cases h : r.getLsbD 15 with
  | true =>
    obtain ⟨hs, -⟩ := s16_of_bit15 h
    rw [if_pos (by omega), if_pos rfl]
  | false =>
    obtain ⟨hs, -⟩ := s16_of_not_bit15 h
    rw [if_neg (by omega), if_neg Bool.false_ne_true]
    simp only [hzero]

/-! ### A scalar result, and a comparison -/

/-- The state after an instruction that writes `r` to `x[d]` and falls through: the register, the flags of `r`
(R124), the advance of `pc`. -/
abbrev State.withResult (s : State) (d : SIdx) (r : Raw16) : State :=
  ((s.writeScalar d r).setCCResult r).setPc (s.pc + 1)

/-- An instruction whose writes are a scalar result and its flags: what it leaves, and its frame. -/
theorem result_of_next {res : Result} {d : SIdx} {r : Raw16} (h : res = .next (s.withResult d r)) :
    ∃ t, res = .next t ∧ t.scalar d = r ∧ t.scalarWritten d = true ∧ FlagsOf r t ∧ t.pc = s.pc + 1 ∧
      ScalarFrame d s t := by
  have hothers : KeepsScalarsBut (· = d) s (s.withResult d r) := fun _ hi =>
    ⟨State.scalar_writeScalar_other s r hi, State.scalarWritten_writeScalar_other s r hi⟩
  exact ⟨_, h, State.scalar_result s d r _, State.scalarWritten_writeScalar_same s d r,
    ⟨rfl, compareFlag_s16_zero r⟩, rfl, ⟨rfl, rfl⟩, ⟨rfl, rfl⟩, hothers, fun _ _ => ⟨rfl, rfl⟩,
    ⟨fun _ => rfl, rfl⟩, rfl, fun _ _ => rfl⟩

/-- An instruction whose only write is a comparison: what it leaves, and its frame. -/
theorem comparison_of_next {res : Result} {a b : Int} (h : res = .next ((s.setCC a b).setPc (s.pc + 1))) :
    ∃ t, res = .next t ∧ FlagsOfComparison a b t ∧ t.pc = s.pc + 1 ∧ KeepsScalars s t ∧ KeepsInputs s t ∧
      KeepsControl s t ∧ KeepsVectors s t ∧ KeepsVertices s t ∧ KeepsGsr s t ∧ KeepsBytes s t :=
  ⟨_, h, ⟨rfl, compareFlag_iff a b⟩, rfl, fun _ _ => ⟨rfl, rfl⟩, ⟨rfl, rfl⟩, ⟨rfl, rfl⟩,
    fun _ _ => ⟨rfl, rfl⟩, ⟨fun _ => rfl, rfl⟩, rfl, fun _ _ => rfl⟩

/-! ### Addition (O17, O18) -/

/-- The sum is the same pattern whichever way its operands are read (40_numeric.md R127). -/
theorem add16_eq_signed (a b : Raw16) : add16 a b = u16 (s16 a + s16 b) := by
  rw [add16, u16_add, u16_add, u16_toNat, u16_toNat, u16_s16, u16_s16]

theorem add16_toNat (a b : Raw16) : (add16 a b).toNat = (a.toNat + b.toNat) % 65536 := by
  have h := toNat_u16 ((a.toNat : Int) + b.toNat)
  rw [add16]
  omega

/-- Extending the immediate with its sign does not change the sum modulo 65536 (41_scalar_alu.md R132). -/
theorem addImm16_eq_add16 (a imm : Raw16) : addImm16 a imm = add16 a imm := by
  rw [addImm16, add16, u16_add, u16_add, u16_s16, u16_toNat imm]

/-- Settles O17: both instructions are the three-register form of the 16-bit addition. -/
theorem addRegistersSum : Obligations.AddRegistersSum := by
  unfold Obligations.AddRegistersSum
  rintro s d s1 s2 hd ⟨h1, r1⟩ ⟨h2, r2⟩ i hi
  have hnext : exec i s = .next (s.withResult d (add16 (s.scalar s1) (s.scalar s2))) := by
    rcases List.mem_pair.1 hi with rfl | rfl
    · exact execAddD_ok hd h1 h2 r1 r2
    · exact execAddF_ok hd h1 h2 r1 r2
  obtain ⟨t, hexec, hsum, hrest⟩ := result_of_next hnext
  rw [← hsum] at hrest
  exact ⟨t, hexec, by rw [hsum, add16_toNat], by rw [hsum, add16_eq_signed], hrest⟩

/-- Settles O18: both instructions are the immediate form of the addition. -/
theorem addImmediateSum : Obligations.AddImmediateSum := by
  unfold Obligations.AddImmediateSum
  rintro s d s1 imm hd ⟨h1, r1⟩ i hi
  have hnext : exec i s = .next (s.withResult d (addImm16 (s.scalar s1) imm)) := by
    rcases List.mem_pair.1 hi with rfl | rfl
    · exact execAddiD_ok hd h1 r1
    · exact execAddiF_ok hd h1 r1
  obtain ⟨t, hexec, hsum, hrest⟩ := result_of_next hnext
  rw [← hsum] at hrest
  refine ⟨t, hexec, ?_, ?_, hrest⟩
  · rw [hsum]
    exact toNat_u16 _
  · rw [hsum, addImm16_eq_add16, add16_toNat]

/-! ### Conjunction and moves (O19, O20, O21) -/

/-- Settles O19: the two forms of the bitwise and. -/
theorem andResult : Obligations.AndResult := by
  unfold Obligations.AndResult
  rintro s d s1 s2 imm hd ⟨h1, r1⟩
  constructor
  · rintro ⟨h2, r2⟩
    obtain ⟨t, hexec, hand, hrest⟩ := result_of_next (execAndD_ok hd h1 h2 r1 r2)
    rw [← hand] at hrest
    exact ⟨t, hexec, hand, hrest⟩
  · obtain ⟨t, hexec, hand, hrest⟩ := result_of_next (execAndiD_ok (imm := imm) hd h1 r1)
    rw [← hand] at hrest
    exact ⟨t, hexec, hand, hrest⟩

/-- Settles O20: the result of MOV is the content of its source. -/
theorem moveRegisterResult : Obligations.MoveRegisterResult := by
  unfold Obligations.MoveRegisterResult
  rintro s md ms hd ⟨hs, hr⟩
  exact result_of_next (execMov_ok hd hs hr)

/-- Settles O21: the result of MOVI_D and of MOVI_F is the immediate. -/
theorem moveImmediateResult : Obligations.MoveImmediateResult := by
  unfold Obligations.MoveImmediateResult
  intro s md imm hd i hi
  rcases List.mem_pair.1 hi with rfl | rfl
  · exact result_of_next (execMoviD_ok hd)
  · exact result_of_next (execMoviF_ok hd)

/-! ### Comparison (O22) -/

/-- Settles O22: the signed readings are compared as integers, so no overflow can arise (40_numeric.md R128). -/
theorem compareResult : Obligations.CompareResult := by
  unfold Obligations.CompareResult
  rintro s s1 s2 imm ⟨h1, r1⟩
  constructor
  · rintro ⟨h2, r2⟩
    exact comparison_of_next (execCmp_ok h1 h2 r1 r2)
  · exact comparison_of_next (execCmpi_ok h1 r1)

end Sys2Proof.Machine
end

section
/-! PROOFS. 43_vector.md: the results of the vector instructions lane by lane, and that each changes one vector
register and no flag (R150 to R155, decision D19). -/

namespace Sys2Proof.Machine

variable {s : State}

/-! ### Writes to one vector register -/

/-- A state that differs from `s` only in the vector files and in `pc` meets the frame of `vd` when the other
vector registers are as in `s`. -/
theorem vectorFrame_of_others {vd : VIdx} {contents : Vector (Lanes Raw16) 64} {marks : Vector (Lanes Bool) 64}
    (n : Int) (hothers : KeepsVectorsBut (· = vd) s { s with v := contents, vw := marks }) :
    VectorFrame vd s { s with v := contents, vw := marks, pc := n } :=
  ⟨⟨rfl, rfl⟩, ⟨rfl, rfl⟩, fun _ _ => ⟨rfl, rfl⟩, ⟨rfl, rfl⟩, hothers, ⟨fun _ => rfl, rfl⟩, rfl, fun _ _ => rfl⟩

theorem vectorFrame_writeVector (s : State) (vd : VIdx) (l : Lanes Raw16) (n : Int) :
    VectorFrame vd s ((s.writeVector vd l).setPc n) :=
  vectorFrame_of_others n fun _ hj =>
    ⟨State.vector_writeVector_other s l hj, State.vectorWritten_writeVector_other s l hj⟩

theorem vectorFrame_writeLane (s : State) (vd : VIdx) (lane : LaneIdx) (val : Raw16) (n : Int) :
    VectorFrame vd s ((s.writeLane vd lane val).setPc n) :=
  vectorFrame_of_others n fun _ hj =>
    ⟨State.vector_writeLane_other s lane val hj, State.vectorWritten_writeLane_other s lane val hj⟩

/-- An instruction whose only write is all of `v[vd]`: what it leaves, every lane marked (10_state.md R31), and its
frame. -/
theorem vector_of_next {res : Result} {vd : VIdx} {l : Lanes Raw16}
    (h : res = .next ((s.writeVector vd l).setPc (s.pc + 1))) :
    ∃ t, res = .next t ∧ t.vector vd = l ∧ (∀ k, (t.vectorWritten vd).get k = true) ∧ t.pc = s.pc + 1 ∧
      VectorFrame vd s t := by
  have hmarks : ∀ k, ((s.writeVector vd l).vectorWritten vd).get k = true := fun k => by
    rw [State.vectorWritten_writeVector_same, Lanes.get_all]
  exact ⟨_, h, State.vector_writeVector_same s vd l, hmarks, rfl, vectorFrame_writeVector s vd l _⟩

/-- An instruction whose only write is one lane of `v[vd]`: that lane, the other lanes with their marks
(10_state.md R31, decision D20), and its frame. -/
theorem lane_of_next {res : Result} {vd : VIdx} {lane : LaneIdx} {val : Raw16}
    (h : res = .next ((s.writeLane vd lane val).setPc (s.pc + 1))) :
    ∃ t, res = .next t ∧ (t.vector vd).get lane = val ∧ (t.vectorWritten vd).get lane = true ∧
      (∀ k, k ≠ lane → (t.vector vd).get k = (s.vector vd).get k ∧
        (t.vectorWritten vd).get k = (s.vectorWritten vd).get k) ∧
      t.pc = s.pc + 1 ∧ VectorFrame vd s t := by
  have hlane : ((s.writeLane vd lane val).vector vd).get lane = val := by
    rw [State.vector_writeLane_same, Lanes.get_set_same]
  have hmark : ((s.writeLane vd lane val).vectorWritten vd).get lane = true := by
    rw [State.vectorWritten_writeLane_same, Lanes.get_set_same]
  have hothers : ∀ k, k ≠ lane → ((s.writeLane vd lane val).vector vd).get k = (s.vector vd).get k ∧
      ((s.writeLane vd lane val).vectorWritten vd).get k = (s.vectorWritten vd).get k := fun k hk =>
    ⟨by rw [State.vector_writeLane_same, Lanes.get_set_other _ _ hk],
      by rw [State.vectorWritten_writeLane_same, Lanes.get_set_other _ _ hk]⟩
  exact ⟨_, h, hlane, hmark, hothers, rfl, vectorFrame_writeLane s vd lane val _⟩

/-! ### Addition, copy, broadcast and lane writes (O23 to O26) -/

/-- Settles O23: the lanes of the result are the 16-bit sums of the lanes of the state before. -/
theorem vectorAddResult : Obligations.VectorAddResult := by
  unfold Obligations.VectorAddResult
  rintro s vd vs1 vs2 hd ⟨h1, r1⟩ ⟨h2, r2⟩
  obtain ⟨t, hexec, hsum, hrest⟩ := vector_of_next (execVadd_ok hd h1 h2 r1 r2)
  exact ⟨t, hexec, fun k => by rw [hsum, Lanes.get_map₂, add16_toNat], hrest⟩

/-- Settles O24: the result of VMOV is the content of its source. -/
theorem vectorMoveResult : Obligations.VectorMoveResult := by
  unfold Obligations.VectorMoveResult
  rintro s vd vs1 hd ⟨h1, r1⟩
  exact vector_of_next (execVmov_ok hd h1 r1)

/-- Settles O25: every lane of the result of VMOVI is the immediate. -/
theorem vectorBroadcastResult : Obligations.VectorBroadcastResult := by
  unfold Obligations.VectorBroadcastResult
  intro s vd imm hd
  obtain ⟨t, hexec, himm, hrest⟩ := vector_of_next (execVmovi_ok (imm := imm) hd)
  exact ⟨t, hexec, fun k => by rw [himm, Lanes.get_all], hrest⟩

/-- Settles O26: the value written is the scalar register's, or the immediate. -/
theorem laneWriteResult : Obligations.LaneWriteResult := by
  unfold Obligations.LaneWriteResult
  intro s lane vd s2 imm hd
  constructor
  · rintro ⟨h2, r2⟩
    exact lane_of_next (execVcompmov_ok hd h2 r2)
  · exact lane_of_next (execVcompmovi_ok hd)

end Sys2Proof.Machine
end

section
/-! PROOFS. 44_load_store.md: the results of the loads and stores, and that a load changes one register and the
flags and a store one or two bytes (R160 to R163, decisions D17, D18). -/

namespace Sys2Proof.Machine

variable {s : State}

/-! ### Loads (O27, O28) -/

/-- The two bytes of a word are its digits to the base 256 (20_memory.md R66). -/
theorem joinBytes_toNat (high low : Byte) : (joinBytes high low).toNat = 256 * high.toNat + low.toNat := by
  have hlow : (low.setWidth 16).toNat = low.toNat := zext16_toNat low
  have hhigh : (high.setWidth 16 <<< 8).toNat = high.toNat <<< 8 := by
    have hwide : (high.setWidth 16).toNat = high.toNat := zext16_toNat high
    simp only [BitVec.toNat_shiftLeft, hwide, Nat.shiftLeft_eq]
    omega
  rw [joinBytes, BitVec.toNat_or, hhigh, hlow, ← Nat.shiftLeft_add_eq_or_of_lt low.isLt, Nat.shiftLeft_eq,
    Nat.mul_comm]

/-- A zero-extended byte has no sign bit, so its flags are never N (decision D17). -/
theorem FlagsOf.cc_ne_N_of_zext16 {b : Byte} {t : State} (h : FlagsOf (zext16 b) t) : t.cc ≠ .N := by
  have hsign : (zext16 b).getLsbD 15 = false := by simp [zext16]
  rw [h.2, hsign, if_neg Bool.false_ne_true]
  split <;> decide

/-- Settles O27: the result of LDB is the zero-extended byte. -/
theorem loadByteResult : Obligations.LoadByteResult := by
  unfold Obligations.LoadByteResult
  rintro s d s1 imm hd ⟨h1, r1⟩ hin
  obtain ⟨t, hexec, hbyte, hmark, hflags, hrest⟩ := result_of_next (execLdb_ok hd h1 r1 hin)
  exact ⟨t, hexec, by rw [hbyte, zext16_toNat, accessAddress], hmark, by rwa [hbyte],
    hflags.cc_ne_N_of_zext16, hrest⟩

/-- Settles O28: the result of LDW is the two bytes joined, the second one high. -/
theorem loadWordResult : Obligations.LoadWordResult := by
  unfold Obligations.LoadWordResult
  rintro s d s1 imm hd ⟨h1, r1⟩ hin
  obtain ⟨t, hexec, hword, hrest⟩ := result_of_next (execLdw_ok hd h1 r1 hin)
  rw [← hword] at hrest
  exact ⟨t, hexec, by rw [hword, joinBytes_toNat, accessAddress], hrest⟩

/-! ### Stores (O29, O30) -/

/-- A state that differs from `s` only in memory and in `pc` meets the frame of a store to the addresses of `P`
when every other byte reads as in `s`. -/
theorem storeFrame_of_others {P : Nat → Prop} {mem : Memory} (n : Int)
    (hothers : KeepsBytesBut P s { s with mem := mem }) : StoreFrame P s { s with mem := mem, pc := n } :=
  ⟨⟨rfl, rfl⟩, ⟨rfl, rfl⟩, fun _ _ => ⟨rfl, rfl⟩, ⟨rfl, rfl⟩, fun _ _ => ⟨rfl, rfl⟩, ⟨fun _ => rfl, rfl⟩, rfl,
    hothers⟩

theorem storeFrame_setByte (s : State) (a : Nat) (w : Byte) (n : Int) :
    StoreFrame (· = a) s ((s.setByte a w).setPc n) :=
  storeFrame_of_others n fun _ hb => State.byteAt_setByte_other s w hb

theorem storeFrame_setByte_succ (s : State) (a : Nat) (low high : Byte) (n : Int) :
    StoreFrame (fun b => b = a ∨ b = a + 1) s (((s.setByte a low).setByte (a + 1) high).setPc n) :=
  storeFrame_of_others n fun b hb => by
    obtain ⟨hfirst, hsecond⟩ := not_or.1 hb
    exact (State.byteAt_setByte_other (s.setByte a low) high hsecond).trans
      (State.byteAt_setByte_other s low hfirst)

/-- Settles O29: the one byte written is the low byte of the register. -/
theorem storeByteResult : Obligations.StoreByteResult := by
  unfold Obligations.StoreByteResult
  rintro s d s1 imm hs ⟨hd, rd⟩ ⟨h1, r1⟩ hin
  have hbyte := State.byteAt_setByte_same hs (accessAddress s s1 imm).toNat (lowByte (s.scalar d))
  exact ⟨_, execStb_ok hd h1 rd r1 hin, (congrArg BitVec.toNat hbyte).trans (lowByte_toNat _), rfl,
    storeFrame_setByte ..⟩

/-- Settles O30: the two bytes written are the low and the high byte of the register. -/
theorem storeWordResult : Obligations.StoreWordResult := by
  unfold Obligations.StoreWordResult
  rintro s d s1 imm hs ⟨hd, rd⟩ ⟨h1, r1⟩ hin
  have hlow := State.byteAt_setByte_succ_first hs (accessAddress s s1 imm).toNat (lowByte (s.scalar d))
    (highByte (s.scalar d))
  have hhigh := State.byteAt_setByte_succ_second hs (accessAddress s s1 imm).toNat (lowByte (s.scalar d))
    (highByte (s.scalar d))
  exact ⟨_, execStw_ok hd h1 rd r1 hin, (congrArg BitVec.toNat hlow).trans (lowByte_toNat _),
    (congrArg BitVec.toNat hhigh).trans (highByte_toNat _), rfl, storeFrame_setByte_succ ..⟩

end Sys2Proof.Machine
end

section
/-! PROOFS. 45_gpu.md: the results of the vertex, color and status instructions, and that each changes only the
vertex slots and the cursor, or only the status register (R170 to R182, decisions D21, D22, D33). -/

namespace Sys2Proof.Machine

variable {s : State}

/-! ### Writes to the vertex slots -/

/-- A state that differs from `s` only in the vertex slots, the cursor and `pc` meets the vertex frame. -/
theorem vertexFrame_of_vertices (s : State) (slots : Vector Vertex 3) (cur : Fin 3) (n : Int) :
    VertexFrame s { s with vtx := slots, cur := cur, pc := n } :=
  ⟨⟨rfl, rfl⟩, ⟨rfl, rfl⟩, fun _ _ => ⟨rfl, rfl⟩, ⟨rfl, rfl⟩, fun _ _ => ⟨rfl, rfl⟩, rfl, fun _ _ => rfl⟩

/-- An instruction whose only writes are one vertex slot and the cursor: that slot, the other slots, the cursor,
and its frame. -/
theorem slot_of_next {res : Result} {n cur : Fin 3} {w : Vertex}
    (h : res = .next (((s.writeVertex n w).setCur cur).setPc (s.pc + 1))) :
    ∃ t, res = .next t ∧ t.vertex n = w ∧ (∀ m, m ≠ n → t.vertex m = s.vertex m) ∧ t.cur = cur ∧
      t.pc = s.pc + 1 ∧ VertexFrame s t :=
  ⟨_, h, State.vertex_writeVertex_same s n w, fun _ hm => State.vertex_writeVertex_other s w hm, rfl, rfl,
    vertexFrame_of_vertices ..⟩

/-- An instruction that rewrites every vertex slot by `f`: the slots, the cursor kept, and its frame. -/
theorem slots_of_next {res : Result} {f : Vertex → Vertex}
    (h : res = .next ((s.mapVertices f).setPc (s.pc + 1))) :
    ∃ t, res = .next t ∧ (∀ n, t.vertex n = f (s.vertex n)) ∧ t.cur = s.cur ∧ t.pc = s.pc + 1 ∧
      VertexFrame s t :=
  ⟨_, h, State.vertex_mapVertices s f, rfl, rfl, vertexFrame_of_vertices ..⟩

/-! ### Positions and colors (O33 to O35) -/

/-- The logical shift by 4 divides the unsigned reading by 16 (40_numeric.md R126). -/
theorem shr4_toNat (a : Raw16) : (shr4 a).toNat = a.toNat / 16 := by
  rw [shr4, BitVec.toNat_ushiftRight, Nat.shiftRight_eq_div_pow]

/-- The cursor advances modulo 3 (10_state.md R36). -/
theorem cur_succ_val (n : Fin 3) : (n + 1).val = (n.val + 1) % 3 := Fin.val_add n 1

/-- Adding a residue is adding the integer, modulo 65536 (40_numeric.md R127). -/
theorem toNat_add16_u16 (a : Raw16) (n : Int) : ((add16 a (u16 n)).toNat : Int) = (a.toNat + n) % 65536 := by
  rw [add16, u16_add, u16_toNat (u16 n), ← u16_add, toNat_u16]

/-- Settles O33: the slot written is the one `cur` names before its advance. -/
theorem setVertexResult : Obligations.SetVertexResult := by
  unfold Obligations.SetVertexResult
  intro s vd hd h1 h2 h3
  obtain ⟨t, hexec, hslot, hothers, hcur, hrest⟩ := slot_of_next (execSetvertex_ok hd h1 h2 h3)
  refine ⟨t, hexec, ?_⟩
  rw [hslot, hcur]
  exact ⟨shr4_toNat _, shr4_toNat _, shr4_toNat _, rfl, rfl, rfl, hothers, cur_succ_val s.cur, hrest⟩

/-- Settles O34: the slot written is slot 0 whatever the cursor, which is kept. -/
theorem setColorResult : Obligations.SetColorResult := by
  unfold Obligations.SetColorResult
  intro s vd hd h0 h1 h2
  obtain ⟨t, hexec, hslot, hrest⟩ := slot_of_next (cur := s.cur) (execSetcolor_ok hd h0 h1 h2)
  refine ⟨t, hexec, ?_⟩
  rw [hslot]
  exact ⟨shr4_toNat _, shr4_toNat _, shr4_toNat _, rfl, rfl, rfl, hrest⟩

/-- Settles O35: the delta added is the residue of the lane over 16 toward minus infinity (O56). -/
theorem translateResult : Obligations.TranslateResult := by
  unfold Obligations.TranslateResult
  intro s vd hd h1 h2
  obtain ⟨t, hexec, hslots, hrest⟩ := slots_of_next (execTranslate_ok hd h1 h2)
  have hmoved (a delta : Raw16) :
      ((add16 a (fixedToTruncatedInt delta)).toNat : Int) = (a.toNat + delta.toInt / 16) % 65536 := by
    rw [truncatedIntIsFloor delta, toNat_add16_u16]
  refine ⟨t, hexec, fun n => ?_, hrest⟩
  rw [hslots]
  exact ⟨hmoved _ _, hmoved _ _, rfl, rfl, rfl, rfl⟩

/-! ### The placeholders (O36) -/

theorem onlyPcFrame_setPc (s : State) (n : Int) : OnlyPcFrame s (s.setPc n) :=
  ⟨⟨rfl, rfl⟩, ⟨rfl, rfl⟩, fun _ _ => ⟨rfl, rfl⟩, ⟨rfl, rfl⟩, fun _ _ => ⟨rfl, rfl⟩, ⟨fun _ => rfl, rfl⟩, rfl,
    fun _ _ => rfl⟩

/-- ROTATE has no check and no write (45_gpu.md R172). -/
theorem exec_rotate (vd : VIdx) (s : State) : exec (.rotate vd) s = .next (s.setPc (s.pc + 1)) := rfl

/-- SCALE has no check and no write (45_gpu.md R174). -/
theorem exec_scale (vd : VIdx) (s : State) : exec (.scale vd) s = .next (s.setPc (s.pc + 1)) := rfl

/-- Settles O36: neither placeholder checks its operand, so both complete in every state. -/
theorem rotateScaleOnlyAdvance : Obligations.RotateScaleOnlyAdvance := by
  unfold Obligations.RotateScaleOnlyAdvance
  intro s vd i hi
  rcases List.mem_pair.1 hi with rfl | rfl
  · exact ⟨_, exec_rotate vd s, rfl, onlyPcFrame_setPc ..⟩
  · exact ⟨_, exec_scale vd s, rfl, onlyPcFrame_setPc ..⟩

/-! ### The status register (O37, O38) -/

theorem gsrFrame_setGsr (s : State) (g : Gsr) (n : Int) : GsrFrame s ((s.setGsr g).setPc n) :=
  ⟨⟨rfl, rfl⟩, ⟨rfl, rfl⟩, fun _ _ => ⟨rfl, rfl⟩, ⟨rfl, rfl⟩, fun _ _ => ⟨rfl, rfl⟩, ⟨fun _ => rfl, rfl⟩,
    fun _ _ => rfl⟩

/-- BEGINPRIMITIVE has no check, so it completes in every state (45_gpu.md R180). -/
theorem exec_beginprimitive (prim : PrimSel) (s : State) :
    exec (.beginprimitive prim) s =
      .next ((s.setGsr { s.gsr with TRIANGLE := prim != 0, LINE := prim == 0 }).setPc (s.pc + 1)) := rfl

/-- FLUSH has no check, so it completes in every state (45_gpu.md R181). -/
theorem exec_flush (s : State) :
    exec .flush s = .next ((s.setGsr { s.gsr with FLUSH := true, DRAW := false }).setPc (s.pc + 1)) := rfl

/-- DRAW has no check, so it completes in every state (45_gpu.md R182). -/
theorem exec_draw (s : State) :
    exec .draw s = .next ((s.setGsr { s.gsr with DRAW := true, FLUSH := false }).setPc (s.pc + 1)) := rfl

/-- Settles O37: the two bits are the two answers to whether the selector is 0 (decision D22). -/
theorem beginPrimitiveResult : Obligations.BeginPrimitiveResult := by
  unfold Obligations.BeginPrimitiveResult
  intro s prim
  have hzero : prim = 0 ↔ prim.toNat = 0 := BitVec.toNat_inj.symm
  exact ⟨_, exec_beginprimitive prim s, bne_iff_ne.trans hzero.not, beq_iff_eq.trans hzero, rfl, rfl, rfl,
    gsrFrame_setGsr ..⟩

/-- Settles O38: each instruction rewrites `DRAW` and `FLUSH` and copies the primitive's bits. -/
theorem flushDrawResult : Obligations.FlushDrawResult := by
  unfold Obligations.FlushDrawResult
  intro s
  constructor
  · exact ⟨_, exec_flush s, rfl, rfl, rfl, rfl, rfl, gsrFrame_setGsr ..⟩
  · exact ⟨_, exec_draw s, rfl, rfl, rfl, rfl, rfl, gsrFrame_setGsr ..⟩

end Sys2Proof.Machine
end

section
/-! PROOFS. 46_control_flow.md: when there is a step, what it runs and what it reports (R190, R191, R215), and the
fetch outside the program (60_exceptions.md R222, decision D26). -/

namespace Sys2Proof.Machine

variable {s : State}

/-! ### When there is a step (O8) -/

/-- Nothing stops the step exactly while the core runs (46_control_flow.md R190). -/
theorem stopReason_eq_none_iff : stopReason s = none ↔ Running s := by
  unfold stopReason
  split <;> simp [*]

theorem exists_retire_eq_next (s : State) (r : Except FaultRecord (State × Disposition)) :
    ∃ t, retire s r = .next t := by
  cases r <;> exact ⟨_, rfl⟩

theorem exists_retireCall_eq_next (s : State) (r : Except FaultRecord (State × Disposition)) :
    ∃ t, retireCall s r = .next t := by
  cases r <;> exact ⟨_, rfl⟩

/-- Every instruction has a meaning that ends in a next state: those with no check reach theirs by definition, and
the others end by `retire` or `retireCall`, which take a failing check's fault. -/
theorem exists_exec_eq_next (i : Instr) (s : State) : ∃ t, exec i s = .next t := by
  cases i with
  | brnzp | jsr | rotate | scale | beginprimitive | flush | draw | halt => exact ⟨_, rfl⟩
  | jsrr s1 => exact exists_retireCall_eq_next s _
  | _ => exact exists_retire_eq_next s _

theorem exists_execDecoded_eq_next (d : Decoded) (s : State) : ∃ t, execDecoded d s = .next t := by
  cases d with
  | instr i => exact exists_exec_eq_next i s
  | nop op => exact ⟨_, rfl⟩

/-- The step of R191 gives a next state whether the fetch faults or not (60_exceptions.md R222, log 4). -/
theorem exists_stepRunning_eq_next (s : State) : ∃ t, stepRunning s = .next t := by
  cases hfetch : fetch s with
  | error f => exact ⟨_, stepRunning_of_fetch_error hfetch⟩
  | ok iw =>
    rw [stepRunning_of_fetch_ok hfetch]
    exact exists_execDecoded_eq_next _ s

/-- Settles O8: the stop conditions alone decide whether there is a step. -/
theorem stepsExactlyWhileRunning : Obligations.StepsExactlyWhileRunning := by
  unfold Obligations.StepsExactlyWhileRunning
  intro s
  constructor
  · rintro ⟨t, hstep⟩
    cases hstop : stopReason s with
    | some r =>
      rw [step_of_stopReason hstop] at hstep
      cases hstep
    | none => exact stopReason_eq_none_iff.1 hstop
  · intro hrun
    rw [step_of_running (stopReason_eq_none_iff.2 hrun)]
    exact exists_stepRunning_eq_next s

/-! ### The word at `pc` (O6, O7) -/

theorem fetch_of_word {iw : IWord} (hpc : 0 ≤ s.pc) (hword : s.prog[s.pc.toNat]? = some iw) : fetch s = .ok iw := by
  simp only [fetch, programWord_eq_some hpc hword]

/-- A running core executes what the fetched word decodes to (46_control_flow.md R191). -/
theorem step_of_fetch_ok {iw : IWord} (hrun : Running s) (hfetch : fetch s = .ok iw) :
    step s = execDecoded (decode s.cfg.opc iw) s := by
  rw [step_of_running (stopReason_eq_none_iff.2 hrun), stepRunning_of_fetch_ok hfetch]

/-- A recognized opcode is not reported (30_encoding.md R101). -/
theorem unknownOpcode_of_instr {iw : IWord} {i : Instr} (hfetch : fetch s = .ok iw)
    (hdecode : decode s.cfg.opc iw = .instr i) : unknownOpcode s = none := by
  simp only [unknownOpcode, hfetch, hdecode, ite_self]

/-- A running core reports an unrecognized opcode (46_control_flow.md R215). -/
theorem unknownOpcode_of_nop {iw : IWord} {op : OpByte} (hrun : Running s) (hfetch : fetch s = .ok iw)
    (hdecode : decode s.cfg.opc iw = .nop op) : unknownOpcode s = some op := by
  simp only [unknownOpcode, stopReason_eq_none_iff.2 hrun, hfetch, hdecode, Option.isSome_none,
    Bool.false_eq_true, if_false]

/-- Settles O6: the fetched word is the one at `pc`. -/
theorem stepRunsDecoded : Obligations.StepRunsDecoded := by
  unfold Obligations.StepRunsDecoded
  intro s iw i hrun hpc hword hdecode
  have hfetch := fetch_of_word hpc hword
  have hstep : step s = execDecoded (.instr i) s := hdecode ▸ step_of_fetch_ok hrun hfetch
  exact ⟨hstep, unknownOpcode_of_instr hfetch hdecode⟩

/-- The unrecognized opcode has no effect but the advance of `pc` (46_control_flow.md R215). -/
theorem execDecoded_nop (op : OpByte) (s : State) : execDecoded (.nop op) s = .next (s.setPc (s.pc + 1)) := rfl

/-- Settles O7: the word at `pc` runs as `NOP(op)`. -/
theorem stepUnknownOpcode : Obligations.StepUnknownOpcode := by
  unfold Obligations.StepUnknownOpcode
  intro s iw op hrun hpc hword hdecode
  have hfetch := fetch_of_word hpc hword
  have hstep : step s = .next (s.setPc (s.pc + 1)) := by
    rw [step_of_fetch_ok hrun hfetch, hdecode, execDecoded_nop]
  exact ⟨_, hstep, rfl, onlyPcFrame_setPc .., unknownOpcode_of_nop hrun hfetch hdecode⟩

/-! ### The fetch outside the program (O9) -/

theorem programWord_eq_none {prog : List IWord} {k : Int} (h : k < 0 ∨ (prog.length : Int) ≤ k) :
    programWord prog k = none := by
  unfold programWord
  split
  · rfl
  · exact List.getElem?_eq_none (by omega)

theorem fetch_outOfRange (h : s.pc < 0 ∨ (s.prog.length : Int) ≤ s.pc) :
    fetch s = .error ⟨.pcOutOfRange, s.pc⟩ := by
  simp only [fetch, programWord_eq_none h]

/-- Settles O9: the fetch fault is taken, which writes the fault register alone. -/
theorem fetchOutsideProgramFaults : Obligations.FetchOutsideProgramFaults := by
  unfold Obligations.FetchOutsideProgramFaults
  intro s hrun hout
  rw [step_of_running (stopReason_eq_none_iff.2 hrun), stepRunning_of_fetch_error (fetch_outOfRange hout),
    State.takeFault]

end Sys2Proof.Machine
end

section
/-! PROOFS. 46_control_flow.md: the results of the branches, jumps, calls and HALT (R193 to R214, decisions D10, D24,
D25, D29). -/

namespace Sys2Proof.Machine

variable {s : State}

/-! ### Branches and jumps (O39, O40, O41) -/

/-- An instruction whose only effect is the assignment of `pc`: what it leaves, and its frame. -/
theorem jump_of_next {res : Result} {n : Int} (h : res = .next (s.setPc n)) :
    ∃ t, res = .next t ∧ t.pc = n ∧ OnlyPcFrame s t :=
  ⟨_, h, rfl, onlyPcFrame_setPc s n⟩

/-- Settles O39: each tested branch is `branchOn` of its set. -/
theorem conditionalBranchResult : Obligations.ConditionalBranchResult := by
  unfold Obligations.ConditionalBranchResult
  intro s imm hcc p hp
  have hbranch : exec p.1 s = branchOn p.2 imm s := by
    simp only [List.mem_cons, List.not_mem_nil, or_false] at hp
    rcases hp with rfl | rfl | rfl | rfl | rfl | rfl <;> rfl
  obtain ⟨t, hexec, hpc, hframe⟩ := jump_of_next (hbranch.trans (branchOn_ok hcc))
  exact ⟨t, hexec, fun htaken => hpc.trans (if_pos htaken), fun hnot => hpc.trans (if_neg hnot), hframe⟩

/-- BRNZP reads nothing, so it is taken in every state (46_control_flow.md R207). -/
theorem exec_brnzp (imm : Raw16) (s : State) :
    exec (.brnzp imm) s = .next (s.setPc (s.pc + 1 + imm.toInt)) := rfl

/-- Settles O40: the offset 0xFFFF reads -1, which undoes the advance. -/
theorem branchAlwaysResult : Obligations.BranchAlwaysResult := by
  unfold Obligations.BranchAlwaysResult
  intro s imm
  obtain ⟨t, hexec, hpc, hframe⟩ := jump_of_next (exec_brnzp imm s)
  refine ⟨t, hexec, hpc, ?_, hframe⟩
  rintro rfl
  have hminus : (0xFFFF : Raw16).toInt = -1 := by decide
  omega

/-- The logical shift by 2 divides the unsigned reading by 4 (40_numeric.md R126). -/
theorem byteToWordIndex_eq (a : Raw16) : byteToWordIndex a = a.toNat / 4 := by
  rw [byteToWordIndex, BitVec.toNat_ushiftRight, Nat.shiftRight_eq_div_pow]

theorem exec_jmp_ok {s1 : SIdx} (h : ScalarReadable s s1) :
    exec (.jmp s1) s = .next (s.setPc ((s.scalar s1).toNat / 4 : Nat)) := by
  rw [← byteToWordIndex_eq]
  exact execJmp_ok h.1 h.2

/-- Settles O41: the byte address is read unsigned (decision D24). -/
theorem jumpResult : Obligations.JumpResult := by
  unfold Obligations.JumpResult
  intro s s1 h1
  exact jump_of_next (exec_jmp_ok h1)

/-! ### Calls (O42, O43) -/

/-- The state after a call from `s` to word index `n`: the link register (46_control_flow.md R195) and `pc`. -/
abbrev State.withLink (s : State) (n : Int) : State := (s.writeScalar s.cfg.lrIdx (linkValue s.pc)).setPc n

/-- The link register of a call's state holds the link value. -/
theorem State.scalar_withLink (s : State) (n : Int) : (s.withLink n).scalar s.cfg.lrIdx = linkValue s.pc :=
  State.scalar_writeScalar_same s s.cfg.lrIdx (linkValue s.pc)

theorem State.scalarWritten_withLink (s : State) (n : Int) : (s.withLink n).scalarWritten s.cfg.lrIdx = true :=
  State.scalarWritten_writeScalar_same s s.cfg.lrIdx (linkValue s.pc)

/-- The link value is the byte address of the next word, modulo 65536 (46_control_flow.md R195). -/
theorem linkValue_toNat (k : Int) : ((linkValue k).toNat : Int) = (k + 1) * 4 % 65536 := toNat_u16 _

theorem linkHolds_withLink (s : State) (n : Int) : LinkHolds s.pc (s.withLink n) := by
  refine ⟨?_, State.scalarWritten_withLink s n⟩
  rw [State.setPc_cfg, State.writeScalar_cfg, State.scalar_withLink, linkValue_toNat]

theorem callFrame_withLink (s : State) (n : Int) : CallFrame s (s.withLink n) := by
  have hothers : KeepsScalarsBut (· = s.cfg.lrIdx) s (s.withLink n) := fun _ hi =>
    ⟨State.scalar_writeScalar_other s (linkValue s.pc) hi,
      State.scalarWritten_writeScalar_other s (linkValue s.pc) hi⟩
  exact ⟨⟨rfl, rfl⟩, ⟨rfl, rfl⟩, hothers, ⟨rfl, rfl⟩, fun _ _ => ⟨rfl, rfl⟩, ⟨fun _ => rfl, rfl⟩, rfl,
    fun _ _ => rfl⟩

/-- A call: what it leaves, and its frame. -/
theorem call_of_next {res : Result} {n : Int} (h : res = .next (s.withLink n)) :
    ∃ t, res = .next t ∧ LinkHolds s.pc t ∧ t.pc = n ∧ CallFrame s t :=
  ⟨_, h, linkHolds_withLink s n, rfl, callFrame_withLink s n⟩

/-- JSR has no check, so it completes in every state (46_control_flow.md R211). -/
theorem exec_jsr (imm : Raw16) (s : State) : exec (.jsr imm) s = .next (s.withLink (s.pc + 1 + imm.toInt)) := rfl

theorem exec_jsrr_ok {s1 : SIdx} (h : ScalarReadable s s1) (hlink : s1 ≠ s.cfg.lrIdx) :
    exec (.jsrr s1) s = .next (s.withLink ((s.scalar s1).toNat / 4 : Nat)) := by
  rw [← byteToWordIndex_eq]
  exact execJsrr_ok h.1 hlink h.2

/-- JSRR through the link register takes its fault before it reads (46_control_flow.md R212, decision D25). -/
theorem execJsrr_link (h : s.cfg.NamesScalar s.cfg.lrIdx) :
    execJsrr s.cfg.lrIdx s = .next (s.takeFault ⟨.unpredictableOperand, s.cfg.lrIdx.toNat⟩) := by
  simp only [execJsrr, State.checkScalar_ok h, State.checkNotLink_link, except_ok_bind, except_error_bind,
    retireCall_error]

/-- Settles O42: JSR is a call in every state. -/
theorem callRelativeResult : Obligations.CallRelativeResult := by
  unfold Obligations.CallRelativeResult
  intro s imm
  exact call_of_next (exec_jsr imm s)

/-- Settles O43: the target is read from the state before the link is written. -/
theorem callRegisterResult : Obligations.CallRegisterResult := by
  unfold Obligations.CallRegisterResult
  intro s s1
  constructor
  · intro h1 hlink
    exact call_of_next (exec_jsrr_ok h1 hlink)
  · rintro hname rfl
    exact execJsrr_link hname

/-! ### HALT (O44) -/

theorem haltFrame_setHalted (s : State) (n : Int) : HaltFrame s (s.setHalted.setPc n) :=
  ⟨⟨rfl, rfl⟩, rfl, fun _ _ => ⟨rfl, rfl⟩, ⟨rfl, rfl⟩, fun _ _ => ⟨rfl, rfl⟩, ⟨fun _ => rfl, rfl⟩, rfl,
    fun _ _ => rfl⟩

/-- Settles O44: HALT completes in every state. -/
theorem haltResult : Obligations.HaltResult := by
  unfold Obligations.HaltResult
  intro s
  exact ⟨_, exec_halt s, rfl, rfl, haltFrame_setHalted ..⟩

/-! ### A call and its return (O45) -/

/-- The link value of a word index the program can have does not wrap around (decision D10). -/
theorem linkValue_div_four {k : Int} (hge : 0 ≤ k) (hlt : k < 16383) :
    (((linkValue k).toNat / 4 : Nat) : Int) = k + 1 := by
  have hlink := linkValue_toNat k
  omega

/-- Both calls leave a state of `withLink`. -/
theorem eq_withLink_of_call {t : State} {imm : Raw16} {s1 : SIdx}
    (h : exec (.jsr imm) s = .next t ∨ (ScalarReadable s s1 ∧ s1 ≠ s.cfg.lrIdx ∧ exec (.jsrr s1) s = .next t)) :
    ∃ n, t = s.withLink n := by
  rcases h with hjsr | ⟨h1, hlink, hjsrr⟩
  · rw [exec_jsr] at hjsr
    cases hjsr
    exact ⟨_, rfl⟩
  · rw [exec_jsrr_ok h1 hlink] at hjsrr
    cases hjsrr
    exact ⟨_, rfl⟩

/-- Settles O45: the link register is readable after the call because the call wrote it, and a link value that does
not wrap around names the next word. -/
theorem callThenReturn : Obligations.CallThenReturn := by
  unfold Obligations.CallThenReturn
  intro s t imm s1 hge hlt hname hcall
  obtain ⟨n, rfl⟩ := eq_withLink_of_call hcall
  have hreadable : ScalarReadable (s.withLink n) s.cfg.lrIdx := ⟨hname, .inr (State.scalarWritten_withLink s n)⟩
  refine ⟨_, exec_jmp_ok hreadable, ?_⟩
  rw [State.setPc_pc, State.scalar_withLink, linkValue_div_four hge hlt]

end Sys2Proof.Machine
end

section
/-! PROOFS. 60_exceptions.md R222, R226: the first failing check of an instruction is the fault it takes, and a
recorded fault is precise. -/

namespace Sys2Proof.Machine

variable {s t : State}

/-! ### The parts of an instruction, each as one check -/

/-- What a part of an instruction answers: the fault of its check, or its value when the check passes. -/
def faultOr {α : Type} (c : Option FaultRecord) (a : α) : Except FaultRecord α :=
  match c with
  | some f => .error f
  | none => .ok a

/-- A part that faults exactly under the condition of its check. -/
theorem ite_eq_faultOr {α : Type} {p q : Prop} [Decidable p] [Decidable q] (h : p ↔ ¬q) (f : FaultRecord) (a : α) :
    (if p then .ok a else .error f) = faultOr (if q then some f else none) a := by
  by_cases hq : q
  · rw [if_neg (h.not.2 (not_not.2 hq)), if_pos hq]; rfl
  · rw [if_pos (h.2 hq), if_neg hq]; rfl

/-- A content is readable exactly when it is not one that `RESET_REGS = undefined` leaves unwritten (R24, R31). -/
theorem readable_iff {r : ResetRegs} {written : Bool} :
    (r = .zero ∨ written = true) ↔ ¬(r = .undefined ∧ written = false) := by
  cases r <;> simp

theorem checkScalar_eq (s : State) (i : SIdx) : s.checkScalar i = faultOr (scalarFieldFault s.cfg i) () := by
  unfold State.checkScalar scalarFieldFault
  split
  · rfl
  · split <;> rfl

theorem checkVector_eq (s : State) (j : VIdx) : s.checkVector j = faultOr (vectorFieldFault s.cfg j) () := by
  unfold State.checkVector vectorFieldFault
  split <;> rfl

theorem checkNotLink_eq (s : State) (i : SIdx) : s.checkNotLink i = faultOr (linkFieldFault s.cfg i) () := by
  unfold State.checkNotLink linkFieldFault
  split <;> rfl

theorem readScalar_eq (s : State) (i : SIdx) : s.readScalar i = faultOr (scalarReadFault s i) (s.scalar i) :=
  ite_eq_faultOr readable_iff _ _

theorem readLane_eq (s : State) (j : VIdx) (k : LaneIdx) :
    s.readLane j k = faultOr (laneReadFault s j k) ((s.vector j).get k) :=
  ite_eq_faultOr readable_iff _ _

theorem readCC_eq (s : State) : s.readCC = faultOr (ccReadFault s) s.cc :=
  ite_eq_faultOr readable_iff _ _

/-- The range check of R65 at the address the instruction reaches. -/
theorem checkRange_eq (s : State) (s1 : SIdx) (imm : Raw16) (n : Nat) :
    s.checkRange (accessAddress s s1 imm) n = faultOr (accessFault s s1 imm n) () :=
  ite_eq_faultOr (by rw [not_or]; omega) _ _

/-! ### The first failing check of a body -/

/-- The first fault of a list of checks: `expectedFault` is that of an instruction's checks in R226's order. -/
def firstFault (checks : List (Option FaultRecord)) : Option FaultRecord := (checks.filterMap id).head?

theorem expectedFault_eq (s : State) (i : Instr) :
    expectedFault s i = firstFault (fieldFaults s.cfg i ++ readFaults s i ++ rangeFaults s i) := rfl

/-- The body of an instruction fails with the first fault of `checks`; without one it leaves a state with the fault
register kept. -/
def TakesFirst (s : State) (checks : List (Option FaultRecord)) (r : Except FaultRecord (State × Disposition)) :
    Prop :=
  Yields (fun f => firstFault checks = some f) (fun p => firstFault checks = none ∧ p.1.fault = s.fault) r

/-- A body with no check left. -/
theorem TakesFirst.done {u : State} {disp : Disposition} (hu : u.fault = s.fault) :
    TakesFirst s [] (.ok (u, disp)) := ⟨rfl, hu⟩

/-- A check before the others: its fault comes first, and when it passes the body goes on with its value. -/
theorem TakesFirst.check {α : Type} {c : Option FaultRecord} {a : α} {checks : List (Option FaultRecord)}
    {r : Except FaultRecord α} {g : α → Except FaultRecord (State × Disposition)} (hr : r = faultOr c a)
    (hg : TakesFirst s checks (g a)) : TakesFirst s (c :: checks) (r >>= g) := by
  subst hr
  cases c with
  | some f => exact rfl
  | none => exact hg

section Parts

variable {checks : List (Option FaultRecord)}

theorem TakesFirst.checkScalar {i : SIdx} {g : Unit → Except FaultRecord (State × Disposition)}
    (hg : TakesFirst s checks (g ())) :
    TakesFirst s (scalarFieldFault s.cfg i :: checks) (s.checkScalar i >>= g) :=
  .check (checkScalar_eq s i) hg

theorem TakesFirst.checkVector {j : VIdx} {g : Unit → Except FaultRecord (State × Disposition)}
    (hg : TakesFirst s checks (g ())) :
    TakesFirst s (vectorFieldFault s.cfg j :: checks) (s.checkVector j >>= g) :=
  .check (checkVector_eq s j) hg

theorem TakesFirst.readScalar {i : SIdx} {g : Raw16 → Except FaultRecord (State × Disposition)}
    (hg : TakesFirst s checks (g (s.scalar i))) :
    TakesFirst s (scalarReadFault s i :: checks) (s.readScalar i >>= g) :=
  .check (readScalar_eq s i) hg

theorem TakesFirst.readLane {j : VIdx} {k : LaneIdx} {g : Raw16 → Except FaultRecord (State × Disposition)}
    (hg : TakesFirst s checks (g ((s.vector j).get k))) :
    TakesFirst s (laneReadFault s j k :: checks) (s.readLane j k >>= g) :=
  .check (readLane_eq s j k) hg

/-- A whole-register read is four checks, one for each lane in the order 0..3. -/
theorem TakesFirst.readVector {j : VIdx} {g : Lanes Raw16 → Except FaultRecord (State × Disposition)}
    (hg : TakesFirst s checks (g (s.vector j))) :
    TakesFirst s (laneReadFault s j 0 :: laneReadFault s j 1 :: laneReadFault s j 2 :: laneReadFault s j 3 :: checks)
      (s.readVector j >>= g) := by
  simp only [State.readVector, bind_assoc, pure_bind]
  exact .readLane <| .readLane <| .readLane <| .readLane hg

/-- An access to memory is its range check and then what it does at the address. -/
theorem TakesFirst.access {α : Type} {s1 : SIdx} {imm : Raw16} {n : Nat} {a : α}
    {g : α → Except FaultRecord (State × Disposition)} (hg : TakesFirst s checks (g a)) :
    TakesFirst s (accessFault s s1 imm n :: checks)
      ((s.checkRange (effectiveAddress (s.scalar s1) imm) n >>= fun _ => pure a) >>= g) := by
  simp only [bind_assoc, pure_bind]
  exact .check (checkRange_eq s s1 imm n) hg

end Parts

/-! ### The first failing check of an instruction (O13) -/

/-- The answer `res` records the first fault of `checks` and changes nothing else; without one it is a next state
with the fault register kept. -/
def RecordsFirst (s : State) (checks : List (Option FaultRecord)) (res : Result) : Prop :=
  (∀ f, firstFault checks = some f → res = .next (s.takeFault f)) ∧
    (firstFault checks = none → ∃ t, res = .next t ∧ t.fault = s.fault)

/-- The end of an instruction that takes its body's fault and keeps the fault register of its body's state. -/
theorem TakesFirst.recordsFirst {checks : List (Option FaultRecord)} {r : Except FaultRecord (State × Disposition)}
    {finish : Except FaultRecord (State × Disposition) → Result} (hr : TakesFirst s checks r)
    (herror : ∀ f, finish (.error f) = .next (s.takeFault f))
    (hok : ∀ u disp, ∃ t, finish (.ok (u, disp)) = .next t ∧ t.fault = u.fault) :
    RecordsFirst s checks (finish r) := by
  cases r with
  | error f =>
    have hfirst : firstFault checks = some f := hr
    simp [RecordsFirst, hfirst, herror]
  | ok p =>
    obtain ⟨hnone, hkept⟩ : firstFault checks = none ∧ p.1.fault = s.fault := hr
    obtain ⟨t, ht, htp⟩ := hok p.1 p.2
    exact ⟨by simp [hnone], fun _ => ⟨t, ht, htp.trans hkept⟩⟩

theorem retire_recordsFirst {checks : List (Option FaultRecord)} {r : Except FaultRecord (State × Disposition)}
    (hr : TakesFirst s checks r) : RecordsFirst s checks (retire s r) :=
  hr.recordsFirst (retire_error s) fun _ _ => ⟨_, rfl, rfl⟩

theorem retireCall_recordsFirst {checks : List (Option FaultRecord)}
    {r : Except FaultRecord (State × Disposition)} (hr : TakesFirst s checks r) :
    RecordsFirst s checks (retireCall s r) :=
  hr.recordsFirst (retireCall_error s) fun _ _ => ⟨_, rfl, rfl⟩

theorem aluRegister_recordsFirst {f : Raw16 → Raw16 → Raw16} {d s1 s2 : SIdx} :
    RecordsFirst s [scalarFieldFault s.cfg d, scalarFieldFault s.cfg s1, scalarFieldFault s.cfg s2,
      scalarReadFault s s1, scalarReadFault s s2] (aluRegister f d s1 s2 s) :=
  retire_recordsFirst <| .checkScalar <| .checkScalar <| .checkScalar <| .readScalar <| .readScalar <| .done rfl

theorem aluImmediate_recordsFirst {f : Raw16 → Raw16 → Raw16} {d s1 : SIdx} {imm : Raw16} :
    RecordsFirst s [scalarFieldFault s.cfg d, scalarFieldFault s.cfg s1, scalarReadFault s s1]
      (aluImmediate f d s1 imm s) :=
  retire_recordsFirst <| .checkScalar <| .checkScalar <| .readScalar <| .done rfl

theorem moveImmediate_recordsFirst {md : SIdx} {imm : Raw16} :
    RecordsFirst s [scalarFieldFault s.cfg md] (moveImmediate md imm s) :=
  retire_recordsFirst <| .checkScalar <| .done rfl

theorem branchOn_recordsFirst {T : List CC} {imm : Raw16} :
    RecordsFirst s [ccReadFault s] (branchOn T imm s) :=
  retire_recordsFirst <| .check (readCC_eq s) <| .done rfl

/-- An instruction with no check completes. -/
theorem unchecked_recordsFirst {u : State} {disp : Disposition} (hu : u.fault = s.fault) :
    RecordsFirst s [] (retire s (.ok (u, disp))) :=
  retire_recordsFirst <| .done hu

/-- Each instruction makes its checks in R226's order: the fields, then the reads, then the range. -/
theorem exec_recordsFirst (i : Instr) (s : State) :
    RecordsFirst s (fieldFaults s.cfg i ++ readFaults s i ++ rangeFaults s i) (exec i s) := by
  cases i with
  | addD d s1 s2 => exact aluRegister_recordsFirst
  | addF d s1 s2 => exact aluRegister_recordsFirst
  | andD d s1 s2 => exact aluRegister_recordsFirst
  | addiD d s1 imm => exact aluImmediate_recordsFirst
  | addiF d s1 imm => exact aluImmediate_recordsFirst
  | andiD d s1 imm => exact aluImmediate_recordsFirst
  | moviD md imm => exact moveImmediate_recordsFirst
  | moviF md imm => exact moveImmediate_recordsFirst
  | mov md ms => exact retire_recordsFirst <| .checkScalar <| .checkScalar <| .readScalar <| .done rfl
  | cmp s1 s2 =>
    exact retire_recordsFirst <| .checkScalar <| .checkScalar <| .readScalar <| .readScalar <| .done rfl
  | cmpi s1 imm => exact retire_recordsFirst <| .checkScalar <| .readScalar <| .done rfl
  | vadd vd vs1 vs2 =>
    exact retire_recordsFirst <| .checkVector <| .checkVector <| .checkVector <| .readVector <| .readVector <|
      .done rfl
  | vmov vd vs1 => exact retire_recordsFirst <| .checkVector <| .checkVector <| .readVector <| .done rfl
  | vmovi vd imm => exact retire_recordsFirst <| .checkVector <| .done rfl
  | vcompmov lane vd s2 => exact retire_recordsFirst <| .checkVector <| .checkScalar <| .readScalar <| .done rfl
  | vcompmovi lane vd imm => exact retire_recordsFirst <| .checkVector <| .done rfl
  | ldb d s1 imm =>
    exact retire_recordsFirst <| .checkScalar <| .checkScalar <| .readScalar <| .access (n := 1) <| .done rfl
  | ldw d s1 imm =>
    exact retire_recordsFirst <| .checkScalar <| .checkScalar <| .readScalar <| .access (n := 2) <| .done rfl
  | stb d s1 imm =>
    exact retire_recordsFirst <| .checkScalar <| .checkScalar <| .readScalar <| .readScalar <|
      .access (n := 1) <| .done rfl
  | stw d s1 imm =>
    exact retire_recordsFirst <| .checkScalar <| .checkScalar <| .readScalar <| .readScalar <|
      .access (n := 2) <| .done rfl
  | setvertex vd =>
    exact retire_recordsFirst <| .checkVector <| .readLane <| .readLane <| .readLane <| .done rfl
  | setcolor vd =>
    exact retire_recordsFirst <| .checkVector <| .readLane <| .readLane <| .readLane <| .done rfl
  | translate vd => exact retire_recordsFirst <| .checkVector <| .readLane <| .readLane <| .done rfl
  | jmp s1 => exact retire_recordsFirst <| .checkScalar <| .readScalar <| .done rfl
  | jsrr s1 =>
    exact retireCall_recordsFirst <| .checkScalar <| .check (checkNotLink_eq s s1) <| .readScalar <| .done rfl
  | jsr imm => exact retireCall_recordsFirst (r := .ok (s, wordOffset imm)) (.done rfl)
  | brn imm => exact branchOn_recordsFirst
  | brz imm => exact branchOn_recordsFirst
  | brp imm => exact branchOn_recordsFirst
  | brnz imm => exact branchOn_recordsFirst
  | brnp imm => exact branchOn_recordsFirst
  | brzp imm => exact branchOn_recordsFirst
  | brnzp imm => exact unchecked_recordsFirst rfl
  | rotate vd => exact unchecked_recordsFirst rfl
  | scale vd => exact unchecked_recordsFirst rfl
  | beginprimitive prim => exact unchecked_recordsFirst rfl
  | flush => exact unchecked_recordsFirst rfl
  | draw => exact unchecked_recordsFirst rfl
  | halt => exact unchecked_recordsFirst rfl

/-- Settles O13: the checks each body makes are those of `expectedFault`, in its order. -/
theorem execTakesFirstFault : Obligations.ExecTakesFirstFault := by
  unfold Obligations.ExecTakesFirstFault
  intro s i
  rw [expectedFault_eq]
  exact exec_recordsFirst i s

/-! ### Precise faults (O14) -/

/-- No shape of write touches the fault register (60_exceptions.md R222). -/
theorem Writes.fault_eq {i : Instr} {u : State} (h : Writes s i u) : u.fault = s.fault := by
  cases h with
  | _ => rfl

/-- A step records a fault by taking it, or keeps the fault register. -/
theorem step_takes_or_keeps_fault (h : step s = .next t) : (∃ f, t = s.takeFault f) ∨ t.fault = s.fault := by
  rcases step_cases h with hfault | ⟨-, rfl | ⟨i, u, n, hw, -, rfl⟩⟩
  · exact .inl hfault
  · exact .inr rfl
  · exact .inr hw.fault_eq

/-- A recorded fault stops a core that has not halted (46_control_flow.md R190, log 5). -/
theorem stopReason_takeFault (h : s.halted = false) (f : FaultRecord) :
    stopReason (s.takeFault f) = some (.faulted f) := by
  simp [stopReason, State.takeFault, h]

/-- Settles O14: from no fault, a recorded one has been taken, which writes the fault register alone. -/
theorem faultsArePrecise : Obligations.FaultsArePrecise := by
  unfold Obligations.FaultsArePrecise
  rintro s t f ⟨hhalted, hnone⟩ h hf
  rcases step_takes_or_keeps_fault h with ⟨e, rfl⟩ | hkept
  · obtain rfl : e = f := Option.some.inj hf
    exact ⟨rfl, step_of_stopReason (stopReason_takeFault hhalted e)⟩
  · rw [hkept, hnone] at hf
    cases hf

end Sys2Proof.Machine
end

section
/-! PROOFS. 70_reset_and_hazards.md: the start of a run (R250, R255, decision D10), and no undefined read under
`RESET_REGS = zero` (R252, decision D12). -/

namespace Sys2Proof.Machine

variable {s t : State}

/-! ### The start of a run (O10) -/

section Boot

variable {c : Config} {prog : List IWord}

theorem boot_admitted (p : PowerOn) (hcfg : c.Valid) (hlen : prog.length ≤ maxProgramLength) :
    State.boot c prog p = .next (State.resetWith c prog p) := by
  rw [State.boot, if_pos hcfg, if_pos hlen]

theorem boot_programTooLong (p : PowerOn) (hcfg : c.Valid) (hlen : maxProgramLength < prog.length) :
    State.boot c prog p = .refused .programTooLong := by
  rw [State.boot, if_pos hcfg, if_neg hlen.not_ge]

theorem boot_parametersNotAdmitted (prog : List IWord) (p : PowerOn) (hcfg : ¬c.Valid) :
    State.boot c prog p = .refused .parametersNotAdmitted := if_neg hcfg

end Boot

/-- Settles O10: the parameters are judged first, then the length of the program. -/
theorem bootAdmitsOrRefuses : Obligations.BootAdmitsOrRefuses := by
  unfold Obligations.BootAdmitsOrRefuses
  intro c prog p
  exact ⟨boot_admitted p, boot_programTooLong p, boot_parametersNotAdmitted prog p⟩

/-! ### The fault a step records -/

/-- From no fault, the one an instruction records is its first failing check (60_exceptions.md R226). -/
theorem expectedFault_of_exec {i : Instr} {f : FaultRecord} (hnone : s.fault = none) (h : exec i s = .next t)
    (hf : t.fault = some f) : expectedFault s i = some f := by
  obtain ⟨htakes, hcompletes⟩ := execTakesFirstFault s i
  cases hexpected : expectedFault s i with
  | some e =>
    rw [htakes e hexpected] at h
    cases h
    exact hf
  | none =>
    obtain ⟨u, hu, hkept⟩ := hcompletes hexpected
    rw [hu] at h
    cases h
    rw [hkept, hnone] at hf
    cases hf

theorem cause_of_fetch_error {f : FaultRecord} (h : fetch s = .error f) : f.cause = .pcOutOfRange := by
  unfold fetch at h
  split at h
  · cases h
  · cases h
    rfl

/-- A running core records the fault of the fetch or the first failing check of an instruction; the unrecognized
opcode records none (46_control_flow.md R191, R215). -/
theorem step_fault_cases {f : FaultRecord} (hrun : Running s) (h : step s = .next t) (hf : t.fault = some f) :
    f.cause = .pcOutOfRange ∨ ∃ i, expectedFault s i = some f := by
  rw [step_of_running (stopReason_eq_none_iff.2 hrun)] at h
  cases hfetch : fetch s with
  | error e =>
    rw [stepRunning_of_fetch_error hfetch] at h
    cases h
    obtain rfl : e = f := Option.some.inj hf
    exact .inl (cause_of_fetch_error hfetch)
  | ok iw =>
    rw [stepRunning_of_fetch_ok hfetch] at h
    cases hdecode : decode s.cfg.opc iw with
    | instr i =>
      rw [hdecode] at h
      exact .inr ⟨i, expectedFault_of_exec hrun.2 h hf⟩
    | nop op =>
      rw [hdecode, execDecoded_nop] at h
      cases h
      rw [State.setPc_fault, hrun.2] at hf
      cases hf

/-! ### The checks that are not a read of something unwritten (O15) -/

/-- The check does not fail with `UndefinedRead`. -/
def NotUndefinedRead (c : Option FaultRecord) : Prop := ∀ f, c = some f → f.cause ≠ .undefinedRead

theorem notUndefinedRead_none : NotUndefinedRead none := fun _ h => nomatch h

/-- A check with one fault, whose cause is another. -/
theorem notUndefinedRead_ite {p : Prop} [Decidable p] {cause : FaultCause} {info : Int} {c : Option FaultRecord}
    (hcause : cause ≠ .undefinedRead) (hc : NotUndefinedRead c) :
    NotUndefinedRead (if p then some ⟨cause, info⟩ else c) := by
  split
  · rintro f ⟨⟩
    exact hcause
  · exact hc

theorem scalarFieldFault_notUndefinedRead (c : Config) (i : SIdx) : NotUndefinedRead (scalarFieldFault c i) :=
  notUndefinedRead_ite (by decide) <| notUndefinedRead_ite (by decide) notUndefinedRead_none

theorem vectorFieldFault_notUndefinedRead (c : Config) (j : VIdx) : NotUndefinedRead (vectorFieldFault c j) :=
  notUndefinedRead_ite (by decide) notUndefinedRead_none

theorem linkFieldFault_notUndefinedRead (c : Config) (i : SIdx) : NotUndefinedRead (linkFieldFault c i) :=
  notUndefinedRead_ite (by decide) notUndefinedRead_none

theorem accessFault_notUndefinedRead (s : State) (s1 : SIdx) (imm : Raw16) (n : Int) :
    NotUndefinedRead (accessFault s s1 imm n) :=
  notUndefinedRead_ite (by decide) notUndefinedRead_none

theorem fieldFaults_notUndefinedRead (c : Config) (i : Instr) :
    ∀ check ∈ fieldFaults c i, NotUndefinedRead check := by
  cases i with
  | _ => simp [fieldFaults, scalarFieldFault_notUndefinedRead, vectorFieldFault_notUndefinedRead,
      linkFieldFault_notUndefinedRead]

theorem rangeFaults_notUndefinedRead (s : State) (i : Instr) :
    ∀ check ∈ rangeFaults s i, NotUndefinedRead check := by
  cases i with
  | _ => simp [rangeFaults, accessFault_notUndefinedRead]

/-! ### The reads under `RESET_REGS = zero` -/

theorem scalarReadFault_of_zero (hzero : s.cfg.resetRegs = .zero) (i : SIdx) : scalarReadFault s i = none := by
  simp [scalarReadFault, hzero]

theorem laneReadFault_of_zero (hzero : s.cfg.resetRegs = .zero) (j : VIdx) (k : LaneIdx) :
    laneReadFault s j k = none := by
  simp [laneReadFault, hzero]

theorem ccReadFault_of_zero (hzero : s.cfg.resetRegs = .zero) : ccReadFault s = none := by
  simp [ccReadFault, hzero]

/-- Under `RESET_REGS = zero` every source read of every instruction passes (10_state.md R24, R31). -/
theorem readFaults_of_zero (hzero : s.cfg.resetRegs = .zero) (i : Instr) :
    ∀ check ∈ readFaults s i, check = none := by
  cases i with
  | _ => simp [readFaults, scalarReadFault_of_zero hzero, laneReadFault_of_zero hzero, ccReadFault_of_zero hzero]

/-! ### No undefined read under `RESET_REGS = zero` (O15) -/

theorem mem_of_firstFault {checks : List (Option FaultRecord)} {f : FaultRecord}
    (h : firstFault checks = some f) : some f ∈ checks := by
  obtain ⟨check, hmem, rfl⟩ := List.mem_filterMap.1 (List.mem_of_mem_head? h)
  exact hmem

/-- The fault of an instruction is one of a field, of a read or of the range, and the reads have none. -/
theorem expectedFault_notUndefinedRead (hzero : s.cfg.resetRegs = .zero) (i : Instr) :
    NotUndefinedRead (expectedFault s i) := by
  intro f h
  have hmem := mem_of_firstFault (expectedFault_eq s i ▸ h)
  rcases List.mem_append.1 hmem with hmem | hrange
  · rcases List.mem_append.1 hmem with hfield | hread
    · exact fieldFaults_notUndefinedRead s.cfg i _ hfield f rfl
    · exact nomatch readFaults_of_zero hzero i _ hread
  · exact rangeFaults_notUndefinedRead s i _ hrange f rfl

/-- Settles O15: a step records the fetch fault or an instruction's first failing check, and neither is a read. -/
theorem zeroResetNeverUndefinedRead : Obligations.ZeroResetNeverUndefinedRead := by
  unfold Obligations.ZeroResetNeverUndefinedRead
  intro s t f hrun hzero h hf
  rcases step_fault_cases hrun h hf with hcause | ⟨i, hexpected⟩
  · simp [hcause]
  · exact expectedFault_notUndefinedRead hzero i f hexpected

end Sys2Proof.Machine
end
